-- ==== Sys2Proof/Word.lean ====
section
/-! DEFINITION. The widths of the hardware (spec/00_scope.md rules R6 and R10): bytes, 16-bit words, the 4-bit
register, row-count and key fields, and the 12-bit address field. All values are unsigned. -/

namespace Sys2Proof

/-- An 8-bit value: a memory byte, a V register, a timer, the field `kk` (R6, R71). -/
abbrev Byte := BitVec 8

/-- A 16-bit value: an instruction word, `i`, `pc`, a call-stack slot (R6). -/
abbrev Word := BitVec 16

/-- A 4-bit value: the fields `x`, `y`, `n`, a key index (R6, R71). -/
abbrev Nibble := BitVec 4

/-- A 12-bit value: the address field `nnn` (R71). -/
abbrev Addr := BitVec 12

end Sys2Proof
end

