-- ==== Sys2Proof/Syntax.lean ====
section
/-! DEFINITION. The instructions: one constructor per row of spec/opcode_table.json, in the table's order, with every
operand field the table gives the row (spec/30_encoding.md rules R71, R72, R75). -/

namespace Sys2Proof

/-- The 34 instructions and the two classes of no-op words (R75, R80). The fields keep the spec's names: `x`, `y`
register indices, `n` a nibble, `kk` an immediate byte, `nnn` a 12-bit address. -/
inductive Instr where
  /-- 00E0 CLS (R161). -/
  | cls
  /-- 00EE RET (R110). -/
  | ret
  /-- 5xy0 SE Vx,Vy (R122). -/
  | seVxVy (x y : Nibble)
  /-- 9xy0 SNE Vx,Vy (R123). -/
  | sneVxVy (x y : Nibble)
  /-- 8xy0 LD Vx,Vy (R142). -/
  | ldVxVy (x y : Nibble)
  /-- 8xy1 OR Vx,Vy (R143). -/
  | orVxVy (x y : Nibble)
  /-- 8xy2 AND Vx,Vy (R144). -/
  | andVxVy (x y : Nibble)
  /-- 8xy3 XOR Vx,Vy (R145). -/
  | xorVxVy (x y : Nibble)
  /-- 8xy4 ADD Vx,Vy (R146). -/
  | addVxVy (x y : Nibble)
  /-- 8xy5 SUB Vx,Vy (R147). -/
  | subVxVy (x y : Nibble)
  /-- 8xy6 SHR Vx (R148). The word has a field `y`, which the meaning ignores. -/
  | shrVx (x y : Nibble)
  /-- 8xy7 SUBN Vx,Vy (R149). -/
  | subnVxVy (x y : Nibble)
  /-- 8xyE SHL Vx (R150). The word has a field `y`, which the meaning ignores. -/
  | shlVx (x y : Nibble)
  /-- Ex9E SKP Vx (R181). -/
  | skpVx (x : Nibble)
  /-- ExA1 SKNP Vx (R182). -/
  | sknpVx (x : Nibble)
  /-- Fx07 LD Vx,DT (R191). -/
  | ldVxDt (x : Nibble)
  /-- Fx0A LD Vx,K (R183). -/
  | ldVxK (x : Nibble)
  /-- Fx15 LD DT,Vx (R192). -/
  | ldDtVx (x : Nibble)
  /-- Fx18 LD ST,Vx (R193). -/
  | ldStVx (x : Nibble)
  /-- Fx1E ADD I,Vx (R194). -/
  | addIVx (x : Nibble)
  /-- Fx29 LD F,Vx (R195). -/
  | ldFVx (x : Nibble)
  /-- Fx33 LD B,Vx (R196). -/
  | ldBVx (x : Nibble)
  /-- Fx55 LD [I],Vx (R197): `x` is a count. -/
  | ldMemVx (x : Nibble)
  /-- Fx65 LD Vx,[I] (R198): `x` is a count. -/
  | ldVxMem (x : Nibble)
  /-- 1nnn JP nnn (R111). -/
  | jp (nnn : Addr)
  /-- 2nnn CALL nnn (R112). -/
  | call (nnn : Addr)
  /-- 3xkk SE Vx,kk (R120). -/
  | seVxKk (x : Nibble) (kk : Byte)
  /-- 4xkk SNE Vx,kk (R121). -/
  | sneVxKk (x : Nibble) (kk : Byte)
  /-- 6xkk LD Vx,kk (R130). -/
  | ldVxKk (x : Nibble) (kk : Byte)
  /-- 7xkk ADD Vx,kk (R131). -/
  | addVxKk (x : Nibble) (kk : Byte)
  /-- 8xyN with N in 8, 9, A, B, C, D, F: NOP8 (R151). -/
  | nop8 (x y n : Nibble)
  /-- Annn LD I,nnn (R132). -/
  | ldINnn (nnn : Addr)
  /-- Bnnn JP V0,nnn (R113). -/
  | jpV0 (nnn : Addr)
  /-- Cxkk RND Vx,kk (R133). -/
  | rndVxKk (x : Nibble) (kk : Byte)
  /-- Dxyn DRW Vx,Vy,n (R163): `n` is an operand, the number of rows. -/
  | drw (x y n : Nibble)
  /-- Fxkk with any other kk: NOPF (R199). -/
  | nopF (x : Nibble) (kk : Byte)
deriving DecidableEq, Repr

end Sys2Proof
end

