-- ==== Sys2Proof/WellFormed.lean ====
section
/-! DEFINITION. Which terms of `Instr` are instructions of the hardware. The fields' types already bound them, so only
the two classes of no-op words carry a check: their sub-opcode must be one that no other row claims
(spec/30_encoding.md rule R80). -/

namespace Sys2Proof

/-- The sub-opcode nibbles of NOP8 (R151). -/
def nop8Sub (n : Nibble) : Bool :=
  n == 0x8 || n == 0x9 || n == 0xA || n == 0xB || n == 0xC || n == 0xD || n == 0xF

/-- The sub-opcode bytes of the nine Fxkk instructions (R75 rows 16 to 24, R190). -/
def miscSub (kk : Byte) : Bool :=
  kk == 0x07 || kk == 0x0A || kk == 0x15 || kk == 0x18 || kk == 0x1E || kk == 0x29 || kk == 0x33 || kk == 0x55 ||
    kk == 0x65

/-- Every constructor is an instruction at every value of its fields, but for the two no-op classes (R80). -/
def Instr.wellFormed : Instr → Bool
  | .nop8 _ _ n => nop8Sub n
  | .nopF _ kk => !miscSub kk
  | .cls | .ret => true
  | .seVxVy _ _ | .sneVxVy _ _ => true
  | .ldVxVy _ _ | .orVxVy _ _ | .andVxVy _ _ | .xorVxVy _ _ | .addVxVy _ _ | .subVxVy _ _ | .shrVx _ _
  | .subnVxVy _ _ | .shlVx _ _ => true
  | .skpVx _ | .sknpVx _ => true
  | .ldVxDt _ | .ldVxK _ | .ldDtVx _ | .ldStVx _ | .addIVx _ | .ldFVx _ | .ldBVx _ | .ldMemVx _ | .ldVxMem _ => true
  | .jp _ | .call _ | .seVxKk _ _ | .sneVxKk _ _ | .ldVxKk _ _ | .addVxKk _ _ | .ldINnn _ | .jpV0 _ | .rndVxKk _ _
  | .drw _ _ _ => true

end Sys2Proof
end

