-- ==== Sys2Proof/Decode.lean ====
section
/-! DEFINITION. The bytecode_decoder (spec/30_encoding.md): the fields of a word, the priority-ordered table of masks
and match values, the decoder of words and of bytes, and the encoder. -/

namespace Sys2Proof

/-- `x`, bits 11 to 8 (R71). -/
def fieldX (w : Word) : Nibble := w.extractLsb' 8 4

/-- `y`, bits 7 to 4 (R71). -/
def fieldY (w : Word) : Nibble := w.extractLsb' 4 4

/-- `n`, bits 3 to 0 (R71). -/
def fieldN (w : Word) : Nibble := w.extractLsb' 0 4

/-- `kk`, bits 7 to 0 (R71). -/
def fieldKk (w : Word) : Byte := w.extractLsb' 0 8

/-- `nnn`, bits 11 to 0 (R71). -/
def fieldNnn (w : Word) : Addr := w.extractLsb' 0 12

/-- One row of the decoder table: the word matches when its bits under `mask` are `pattern` (R75). -/
structure DecodeRow where
  mask : Word
  pattern : Word
  build : Word → Instr

/-- "the decoder ANDs the word with each mask and compares to the match-value" (R75). -/
def rowMatches (r : DecodeRow) (w : Word) : Bool := (w &&& r.mask) == r.pattern

/-- Rows 1 and 2, mask 0xFFFF. -/
def exactRows : List DecodeRow :=
  [⟨0xFFFF, 0x00E0, fun _ => .cls⟩,
   ⟨0xFFFF, 0x00EE, fun _ => .ret⟩]

/-- Rows 3 to 13, mask 0xF00F. -/
def registerRows : List DecodeRow :=
  [⟨0xF00F, 0x5000, fun w => .seVxVy (fieldX w) (fieldY w)⟩,
   ⟨0xF00F, 0x9000, fun w => .sneVxVy (fieldX w) (fieldY w)⟩,
   ⟨0xF00F, 0x8000, fun w => .ldVxVy (fieldX w) (fieldY w)⟩,
   ⟨0xF00F, 0x8001, fun w => .orVxVy (fieldX w) (fieldY w)⟩,
   ⟨0xF00F, 0x8002, fun w => .andVxVy (fieldX w) (fieldY w)⟩,
   ⟨0xF00F, 0x8003, fun w => .xorVxVy (fieldX w) (fieldY w)⟩,
   ⟨0xF00F, 0x8004, fun w => .addVxVy (fieldX w) (fieldY w)⟩,
   ⟨0xF00F, 0x8005, fun w => .subVxVy (fieldX w) (fieldY w)⟩,
   ⟨0xF00F, 0x8006, fun w => .shrVx (fieldX w) (fieldY w)⟩,
   ⟨0xF00F, 0x8007, fun w => .subnVxVy (fieldX w) (fieldY w)⟩,
   ⟨0xF00F, 0x800E, fun w => .shlVx (fieldX w) (fieldY w)⟩]

/-- Rows 14 to 24, mask 0xF0FF. -/
def byteRows : List DecodeRow :=
  [⟨0xF0FF, 0xE09E, fun w => .skpVx (fieldX w)⟩,
   ⟨0xF0FF, 0xE0A1, fun w => .sknpVx (fieldX w)⟩,
   ⟨0xF0FF, 0xF007, fun w => .ldVxDt (fieldX w)⟩,
   ⟨0xF0FF, 0xF00A, fun w => .ldVxK (fieldX w)⟩,
   ⟨0xF0FF, 0xF015, fun w => .ldDtVx (fieldX w)⟩,
   ⟨0xF0FF, 0xF018, fun w => .ldStVx (fieldX w)⟩,
   ⟨0xF0FF, 0xF01E, fun w => .addIVx (fieldX w)⟩,
   ⟨0xF0FF, 0xF029, fun w => .ldFVx (fieldX w)⟩,
   ⟨0xF0FF, 0xF033, fun w => .ldBVx (fieldX w)⟩,
   ⟨0xF0FF, 0xF055, fun w => .ldMemVx (fieldX w)⟩,
   ⟨0xF0FF, 0xF065, fun w => .ldVxMem (fieldX w)⟩]

/-- Rows 25 to 36, mask 0xF000. Rows 31 (NOP8) and 36 (NOPF) stand after the rows they would shadow (R76). -/
def familyRows : List DecodeRow :=
  [⟨0xF000, 0x1000, fun w => .jp (fieldNnn w)⟩,
   ⟨0xF000, 0x2000, fun w => .call (fieldNnn w)⟩,
   ⟨0xF000, 0x3000, fun w => .seVxKk (fieldX w) (fieldKk w)⟩,
   ⟨0xF000, 0x4000, fun w => .sneVxKk (fieldX w) (fieldKk w)⟩,
   ⟨0xF000, 0x6000, fun w => .ldVxKk (fieldX w) (fieldKk w)⟩,
   ⟨0xF000, 0x7000, fun w => .addVxKk (fieldX w) (fieldKk w)⟩,
   ⟨0xF000, 0x8000, fun w => .nop8 (fieldX w) (fieldY w) (fieldN w)⟩,
   ⟨0xF000, 0xA000, fun w => .ldINnn (fieldNnn w)⟩,
   ⟨0xF000, 0xB000, fun w => .jpV0 (fieldNnn w)⟩,
   ⟨0xF000, 0xC000, fun w => .rndVxKk (fieldX w) (fieldKk w)⟩,
   ⟨0xF000, 0xD000, fun w => .drw (fieldX w) (fieldY w) (fieldN w)⟩,
   ⟨0xF000, 0xF000, fun w => .nopF (fieldX w) (fieldKk w)⟩]

/-- The 36 rows in priority order (R75; the numbers are PRESUMED, decision D1, log entry 7). -/
def decodeTable : List DecodeRow := exactRows ++ registerRows ++ byteRows ++ familyRows

/-- The instruction of the first row that matches, if one does (R75, R78). -/
def decodeWord (w : Word) : Option Instr :=
  (decodeTable.find? (fun r => rowMatches r w)).map (fun r => r.build w)

/-- What the decoder answers for a word: an instruction, or the rejection `unrecognized` "carrying the raw word for
diagnostics" (R75). -/
inductive Decoded where
  | instr (i : Instr)
  | unrecognized (w : Word)
deriving DecidableEq, Repr

/-- `Decode(w)` of R75, total on the 65536 words (R78). -/
def decode (w : Word) : Decoded :=
  match decodeWord w with
  | some i => .instr i
  | none => .unrecognized w

/-- What the decoder answers for a sequence of bytes, with the bytes after the word. -/
inductive DecodedBytes where
  | instr (i : Instr) (rest : List Byte)
  | unrecognized (w : Word) (rest : List Byte)
  /-- Fewer than two bytes: no word to decode (R70: an instruction is always two bytes). -/
  | truncated
deriving DecidableEq, Repr

/-- The word of two bytes, the first (lower address) being its high byte (R53). -/
def wordOfBytes (hi lo : Byte) : Word := hi ++ lo

/-- The high byte of a word, stored at the lower address (R53, R70). -/
def highByte (w : Word) : Byte := w.extractLsb' 8 8

/-- The low byte of a word, stored at the higher address (R53, R70). -/
def lowByte (w : Word) : Byte := w.extractLsb' 0 8

/-- The two bytes of a word in the order of their addresses (R53). -/
def wordBytes (w : Word) : List Byte := [highByte w, lowByte w]

/-- The decoder on bytes: it always consumes exactly two (R70). -/
def decodeBytes : List Byte → DecodedBytes
  | hi :: lo :: rest =>
    match decode (wordOfBytes hi lo) with
    | .instr i => .instr i rest
    | .unrecognized w => .unrecognized w rest
  | [_] => .truncated
  | [] => .truncated

/-- The instruction of a table row's word: the row's bits laid out as the hardware stores them and given to the
decoder. Every row of the table has 16 bits. -/
def decodeTableWord (nbits w : Nat) : Option Instr :=
  match decodeBytes (wordBytes (BitVec.ofNat 16 (w % 2 ^ nbits))) with
  | .instr i _ => some i
  | .unrecognized _ _ => none
  | .truncated => none

/-- A word of format A: family nibble and address (R72). -/
def wordA (op : Nibble) (nnn : Addr) : Word := op ++ nnn

/-- A word of format I or K: family nibble, register, byte (R72). -/
def wordI (op x : Nibble) (kk : Byte) : Word := op ++ x ++ kk

/-- A word of format R or D: family nibble, two registers, nibble (R72). -/
def wordR (op x y n : Nibble) : Word := op ++ x ++ y ++ n

/-- The word of an instruction (the encoding patterns of R75 and R82). -/
def encode : Instr → Word
  | .cls => 0x00E0
  | .ret => 0x00EE
  | .seVxVy x y => wordR 0x5 x y 0x0
  | .sneVxVy x y => wordR 0x9 x y 0x0
  | .ldVxVy x y => wordR 0x8 x y 0x0
  | .orVxVy x y => wordR 0x8 x y 0x1
  | .andVxVy x y => wordR 0x8 x y 0x2
  | .xorVxVy x y => wordR 0x8 x y 0x3
  | .addVxVy x y => wordR 0x8 x y 0x4
  | .subVxVy x y => wordR 0x8 x y 0x5
  | .shrVx x y => wordR 0x8 x y 0x6
  | .subnVxVy x y => wordR 0x8 x y 0x7
  | .shlVx x y => wordR 0x8 x y 0xE
  | .skpVx x => wordI 0xE x 0x9E
  | .sknpVx x => wordI 0xE x 0xA1
  | .ldVxDt x => wordI 0xF x 0x07
  | .ldVxK x => wordI 0xF x 0x0A
  | .ldDtVx x => wordI 0xF x 0x15
  | .ldStVx x => wordI 0xF x 0x18
  | .addIVx x => wordI 0xF x 0x1E
  | .ldFVx x => wordI 0xF x 0x29
  | .ldBVx x => wordI 0xF x 0x33
  | .ldMemVx x => wordI 0xF x 0x55
  | .ldVxMem x => wordI 0xF x 0x65
  | .jp nnn => wordA 0x1 nnn
  | .call nnn => wordA 0x2 nnn
  | .seVxKk x kk => wordI 0x3 x kk
  | .sneVxKk x kk => wordI 0x4 x kk
  | .ldVxKk x kk => wordI 0x6 x kk
  | .addVxKk x kk => wordI 0x7 x kk
  | .nop8 x y n => wordR 0x8 x y n
  | .ldINnn nnn => wordA 0xA nnn
  | .jpV0 nnn => wordA 0xB nnn
  | .rndVxKk x kk => wordI 0xC x kk
  | .drw x y n => wordR 0xD x y n
  | .nopF x kk => wordI 0xF x kk

end Sys2Proof
end

