-- ==== Sys2Proof/Config.lean ====
section
/-! DEFINITION. What is fixed for this hardware (spec/00_scope.md rule R6), and the values its host chooses, which
are free: constants without a body, so that no proof can know one. -/

namespace Sys2Proof

/-- MEM_SIZE: addresses 0x000 to 0xFFF (R6, R50). -/
abbrev Config.memSize : Nat := 4096

/-- PROG_BASE, the entry point and the address of the image's first byte (R6, R51). -/
abbrev Config.progBase : Nat := 0x200

/-- PROG_MAX, the longest program image (R6, R225). -/
abbrev Config.progMax : Nat := 3584

/-- FONT, the 80 font bytes at 0x000 to 0x04F, glyph 0 to glyph F (R52). PRESUMED: the spec takes them from general
knowledge (decision D9, log entry 12), unsafe for claims about glyph pixels. -/
def Config.font : List Byte :=
  [0xF0, 0x90, 0x90, 0x90, 0xF0] ++
  [0x20, 0x60, 0x20, 0x20, 0x70] ++
  [0xF0, 0x10, 0xF0, 0x80, 0xF0] ++
  [0xF0, 0x10, 0xF0, 0x10, 0xF0] ++
  [0x90, 0x90, 0xF0, 0x10, 0x10] ++
  [0xF0, 0x80, 0xF0, 0x10, 0xF0] ++
  [0xF0, 0x80, 0xF0, 0x90, 0xF0] ++
  [0xF0, 0x10, 0x20, 0x40, 0x40] ++
  [0xF0, 0x90, 0xF0, 0x90, 0xF0] ++
  [0xF0, 0x90, 0xF0, 0x10, 0xF0] ++
  [0xF0, 0x90, 0xF0, 0x90, 0x90] ++
  [0xE0, 0x90, 0xE0, 0x90, 0xE0] ++
  [0xF0, 0x80, 0x80, 0x80, 0xF0] ++
  [0xE0, 0x90, 0x90, 0x90, 0xE0] ++
  [0xF0, 0x80, 0xF0, 0x80, 0xF0] ++
  [0xF0, 0x80, 0xF0, 0x80, 0x80]

/-- FREE VALUE. The `keys` argument of the Tick that the host delivers as its n-th event, where the host's list of
events names none (R6 "any 16-bit vector at each tick"; log entry 1). -/
opaque Config.freeKeys : Nat → BitVec 16

/-- FREE VALUE. The `rnd` argument of the Tick that the host delivers as its n-th event, where the host's list of
events names none (R134 "a free value 0..255 chosen anew for each Tick"; log entry 1). -/
opaque Config.freeRnd : Nat → Byte

/-- FREE VALUE. What the host delivers as its n-th event to a block that waits for a key, where the host's list of
events names nothing: a `KeyEvent` with this index, or a `Tick` (R183, R223; log entry 3). -/
opaque Config.freeKeyEvent : Nat → Option Nibble

end Sys2Proof
end

