-- ==== Sys2Proof/Machine/State.lean ====
section
/-! DEFINITION. The state of the block (spec/10_state.md rule R20), the host events it is given, the ways a step can
stop, and the state after reset (rule R32). -/

namespace Sys2Proof.Machine

/-- `memory` (R50): the bytes that differ from what an unlisted address reads as, at strictly rising addresses
(`Memory.wf` in Ops.lean states the form). -/
abbrev Memory := List Host.Cell

/-- The frame buffer `FB[c][r]` (R27): column `c` in 0..63, row `r` in 0..31; on is `true`. -/
abbrev FrameBuffer := Vector (Vector Bool 32) 64

/-- `run_state` (R28). -/
inductive RunState where
  /-- The next Tick executes an instruction. -/
  | running
  /-- An Fx0A has been fetched and is suspended until a KeyEvent. -/
  | waitKey
  /-- A fault has been raised; only Reset leaves this state. -/
  | halted
deriving DecidableEq, Repr

/-- `fault_code` (R210): the names of the codes 0 to 5; `FaultCode.code` in Ops.lean gives the numbers. -/
inductive FaultCode where
  /-- Code 0. -/
  | noFault
  /-- Code 1: the fetched word matches no row of the decoder table. -/
  | unrecognizedOpcode
  /-- Code 2: a Call at `stackLevel` 15. -/
  | stackOverflow
  /-- Code 3: a Return at `stackLevel` -1. -/
  | stackUnderflow
  /-- Code 4: an access outside [0,4095] by the fetch, Dxyn, Fx33, Fx55 or Fx65. -/
  | memoryOutOfBounds
  /-- Code 5: Ex9E or ExA1 with `V[x] > 15`. -/
  | keyIndexOutOfRange
deriving DecidableEq, Repr

/-- The three input events of the block (R7). -/
inductive HostEvent where
  /-- `Reset(IMAGE)` (R240). -/
  | reset (image : List Byte)
  /-- `Tick(keys, rnd)` (R90). -/
  | tick (keys : BitVec 16) (rnd : Byte)
  /-- `KeyEvent(k)`, k in 0..15 (R183). -/
  | keyEvent (k : Nibble)
deriving DecidableEq, Repr

/-- The complete state of the block (R20), and below it the model's own fields, which stand for the arguments of the
host's events (R29: "they are arguments of the step"). -/
structure State where
  /-- `memory`, 4096 bytes (R50). -/
  mem : Memory
  /-- `V[0..15]`; `V[15]` is VF (R21, R22). -/
  v : Vector Byte 16
  /-- The index register (R23). -/
  i : Word
  /-- The program counter (R24). -/
  pc : Word
  /-- The call stack's slots (R25). -/
  stack : Vector Word 16
  /-- `stackLevel` (R25): `none` is -1, `some k` is k. DEDUCED from the range -1..15, safe (log entry 20). -/
  stackLevel : Option (Fin 16)
  /-- (R26). -/
  delayTimer : Byte
  /-- (R26). -/
  soundTimer : Byte
  /-- The frame buffer (R27). -/
  fb : FrameBuffer
  /-- (R28). -/
  runState : RunState
  /-- The destination register of a pending key wait (R28). -/
  waitX : Nibble
  /-- The recorded fault's code (R28, R211). -/
  faultCode : FaultCode
  /-- The recorded fault's information (R28, R211). -/
  faultInfo : Word
  /-- THE MODEL'S OWN: the `keys` argument of the Tick being executed (R7). DESIGN CHOICE, safe (log entry 4). -/
  tickKeys : BitVec 16
  /-- THE MODEL'S OWN: the `rnd` argument of the Tick being executed (R7). DESIGN CHOICE, safe (log entry 4). -/
  tickRnd : Byte
  /-- THE MODEL'S OWN: the events the host is still going to deliver, oldest first (R7, R224). DESIGN CHOICE, unsafe
  where a claim fixes the list (log entry 2). -/
  events : List HostEvent
  /-- THE MODEL'S OWN: how many events have been taken, where the free inputs are read (log entry 1). -/
  eventIndex : Nat
deriving DecidableEq, Repr

/-- The ways a step can stop with a fault: NONE. The spec's five faults have an entry the spec describes (R212), so a
fault is a NEXT state with `runState = .halted` and the fault record written; nothing stops the model here (log
entry 6). -/
inductive Fault where
deriving DecidableEq, Repr

/-- The ways a step can be refused. -/
inductive Refusal where
  /-- An instruction without a meaning; raised by no arm of this model. Safe. -/
  | notModelled (mnemonic : String)
  /-- Raised by `deliver` for `Reset(IMAGE)` with `len(IMAGE) > 3584`: the loader refuses it, it "has no meaning for
  the core" (R225). Safe (log entry 22). -/
  | imageTooLong (length : Nat)
deriving DecidableEq, Repr

/-- What a meaning and a step answer. -/
abbrev Answer := Host.Outcome State Fault Refusal

/-- The state after `Reset` with the empty image (R32, R240; R225: "a zero-filled program region"). Memory lists
nothing: an unlisted address reads as its reset content. The last four values are the model's own (DESIGN CHOICE, log
entries 1, 2 and 4). -/
def State.reset : State where
  mem := []
  v := Vector.replicate 16 0
  i := 0
  pc := 0x200
  stack := Vector.replicate 16 0
  stackLevel := none
  delayTimer := 0
  soundTimer := 0
  fb := Vector.replicate 64 (Vector.replicate 32 false)
  runState := .running
  waitX := 0
  faultCode := .noFault
  faultInfo := 0
  tickKeys := 0
  tickRnd := 0
  events := []
  eventIndex := 0

end Sys2Proof.Machine
end

