-- ==== Sys2Proof/Machine/Ops.lean ====
section
/-! DEFINITION. The named operations over memory, registers, program counter and call stack, and the one operation
that takes a fault (spec/20_memory.md, spec/10_state.md, spec/40_tick_cycle.md rule R94, spec/41_control_flow.md rule
R114, spec/60_exceptions.md rule R212). -/

namespace Sys2Proof.Machine

/-! ### Memory -/

/-- What an address that memory does not list reads as: its content after Reset with the empty image, FONT below
0x050 and 0 elsewhere (R32). DEDUCED, safe (log entry 19). -/
def Memory.unlisted (a : Nat) : Byte := Config.font.getD a 0

/-- `memory[a]` (R13). Every use stands behind a bounds check (R56). -/
def Memory.byteAt : Memory → Nat → Byte
  | [], a => Memory.unlisted a
  | (b, w) :: rest, a => if a = b then w else Memory.byteAt rest a

/-- `memory[a] <- w`, keeping the canonical form: writing what an unlisted address reads as removes the entry. -/
def Memory.put : Memory → Nat → Byte → Memory
  | [], a, w => if w = Memory.unlisted a then [] else [(a, w)]
  | (b, u) :: rest, a, w =>
    if a < b then (if w = Memory.unlisted a then (b, u) :: rest else (a, w) :: (b, u) :: rest)
    else if a = b then (if w = Memory.unlisted a then rest else (a, w) :: rest)
    else (b, u) :: Memory.put rest a w

/-- The bytes `bs` written at `a`, `a+1`, … one at a time (R55). -/
def Memory.putBytes : Memory → Nat → List Byte → Memory
  | m, _, [] => m
  | m, a, b :: bs => Memory.putBytes (Memory.put m a b) (a + 1) bs

/-- The `n` bytes at `a`, `a+1`, … read one at a time (R55). -/
def Memory.bytesAt (m : Memory) (a : Nat) : Nat → List Byte
  | 0 => []
  | n + 1 => Memory.byteAt m a :: Memory.bytesAt m (a + 1) n

/-- The canonical form from address `lo` on: rising addresses inside the address space, no entry equal to what an
unlisted address reads as. -/
def Memory.wfFrom : Nat → Memory → Bool
  | _, [] => true
  | lo, (a, w) :: rest =>
    decide (lo ≤ a) && decide (a < Config.memSize) && (w != Memory.unlisted a) && Memory.wfFrom (a + 1) rest

/-- The canonical form of memory. -/
def Memory.wf (m : Memory) : Bool := Memory.wfFrom 0 m

/-- All `count` addresses from `base` on lie in [0,4095], over the unbounded integers; an empty range needs no check
(R56). -/
def rangeOk (base count : Nat) : Bool := count == 0 || decide (base + (count - 1) ≤ 4095)

/-! ### Registers -/

/-- `V[x]` (R12). -/
def State.getV (s : State) (x : Nibble) : Byte := s.v[x.toNat]'(x.isLt)

/-- `V[x] <- b` (R12). -/
def State.setV (s : State) (x : Nibble) (b : Byte) : State := { s with v := s.v.set x.toNat b x.isLt }

/-- `i <- a` (R12). -/
def State.setI (s : State) (a : Word) : State := { s with i := a }

/-- `delayTimer <- b` (R26). -/
def State.setDelay (s : State) (b : Byte) : State := { s with delayTimer := b }

/-- `soundTimer <- b` (R26). -/
def State.setSound (s : State) (b : Byte) : State := { s with soundTimer := b }

/-- Memory replaced as a whole, by one of the operations above. -/
def State.setMem (s : State) (m : Memory) : State := { s with mem := m }

/-- The frame buffer replaced as a whole, by one of the operations of Frame.lean. -/
def State.setFb (s : State) (f : FrameBuffer) : State := { s with fb := f }

/-! ### program_counter_mux (R94) -/

/-- `pc <- target` (R14): the sources absolute, indexed and return. -/
def State.setPc (s : State) (target : Word) : State := { s with pc := target }

/-- The source sequential: `pc + 2`. -/
def State.advance (s : State) : State := s.setPc (s.pc + 2)

/-- The source skip (`pc + 4`) when the condition holds, else sequential. The skipped word is not looked at. -/
def State.skipIf (s : State) (c : Bool) : State := s.setPc (if c then s.pc + 4 else s.pc + 2)

/-! ### call_stack_unit (R114) -/

/-- The slot a Call writes, `stackLevel + 1`; `none` when `stackLevel` is 15 (R112). -/
def nextSlot : Option (Fin 16) → Option (Fin 16)
  | none => some 0
  | some k => if h : k.val < 15 then some ⟨k.val + 1, by omega⟩ else none

/-- `stackLevel - 1` from the level `k` (R110). -/
def lowerLevel (k : Fin 16) : Option (Fin 16) :=
  if k.val = 0 then none else some ⟨k.val - 1, by omega⟩

/-- Slot `k` written and made the top one (R112). -/
def State.pushAt (s : State) (k : Fin 16) (a : Word) : State :=
  { s with stack := s.stack.set k.val a k.isLt, stackLevel := some k }

/-- `stackLevel` lowered from `k`; the slot keeps its value (R110, R25, decision D22, log entry 21). -/
def State.popFrom (s : State) (k : Fin 16) : State := { s with stackLevel := lowerLevel k }

/-! ### Faults -/

/-- `code(F)`: the number of a fault code (R210; DESIGN CHOICE of the spec, decision D6). -/
def FaultCode.code : FaultCode → Nat
  | .noFault => 0
  | .unrecognizedOpcode => 1
  | .stackOverflow => 2
  | .stackUnderflow => 3
  | .memoryOutOfBounds => 4
  | .keyIndexOutOfRange => 5

/-- The state a fault leaves: "does exactly this: `run_state <- HALTED`; `fault_code <- code(F)`; `fault_info <-
info`" (R212). -/
def State.halt (s : State) (f : FaultCode) (info : Word) : State :=
  { s with runState := .halted, faultCode := f, faultInfo := info }

/-- `raise F(info)` (R14, R212): taking a fault is a next state; the rest of the Tick is abandoned. There is no return
from a fault (R216): only Reset leaves HALTED (R213). -/
def raise (f : FaultCode) (info : Word) (s : State) : Answer := .next (s.halt f info)

/-- Entering the key wait: `wait_x <- x`, `run_state <- WAIT_KEY`, pc held (R183, part 1). -/
def State.suspend (s : State) (x : Nibble) : State := { s with waitX := x, runState := .waitKey }

/-- Leaving the key wait: `wait_x <- 0`, `run_state <- RUNNING` (R183, part 2). -/
def State.resume (s : State) : State := { s with waitX := 0, runState := .running }

end Sys2Proof.Machine
end

