-- ==== Sys2Proof/Machine/Flags.lean ====
section
/-! DEFINITION. The carry_flag_logic (spec/44_alu.md rules R140, R141): the five flag computations and the order of the
two writes of a flag-writing instruction. -/

namespace Sys2Proof.Machine

/-- `V[15]`, VF, the flag register (R22). -/
abbrev vf : Nibble := 15

/-- A flag as the byte 0 or 1 (R22: "The value written is always 0 or 1"). -/
def flagByte (c : Bool) : Byte := if c then 1 else 0

/-- ADD: the carry out of bit 7, `a + b > 255` (R140, R146). -/
def addFlag (a b : Byte) : Byte := flagByte (decide (a.toNat + b.toNat > 255))

/-- SUB, and SUBN with the operands exchanged: strictly greater (R140, R147, R149). -/
def greaterFlag (a b : Byte) : Byte := flagByte (decide (a.toNat > b.toNat))

/-- SHR: the bit shifted out, `a[0]` (R140, R148). -/
def shrFlag (a : Byte) : Byte := flagByte (a.getLsbD 0)

/-- SHL: the bit shifted out, `a[7]`, a proper bit test (R140, R150, C6). -/
def shlFlag (a : Byte) : Byte := flagByte (a.getLsbD 7)

/-- `V[15] <- flag` first, `V[x] <- result` second: with x = 15 the result stays (R141, decision D3). DESIGN CHOICE of
the spec, unsafe (log entry 8). -/
def State.writeFlagged (s : State) (x : Nibble) (flag result : Byte) : State := (s.setV vf flag).setV x result

end Sys2Proof.Machine
end

