-- ==== Sys2Proof/Machine/Alu.lean ====
section
/-! DEFINITION. The register-register ALU family (spec/44_alu.md rules R142 to R151). The operands are read before any
write (rule R93). -/

namespace Sys2Proof.Machine

/-- 8xy0 (R142). -/
def execLdVxVy (x y : Nibble) (s : State) : Answer := .next (s.setV x (s.getV y)).advance

/-- 8xy1 (R143): VF untouched. -/
def execOrVxVy (x y : Nibble) (s : State) : Answer := .next (s.setV x (s.getV x ||| s.getV y)).advance

/-- 8xy2 (R144): VF untouched. -/
def execAndVxVy (x y : Nibble) (s : State) : Answer := .next (s.setV x (s.getV x &&& s.getV y)).advance

/-- 8xy3 (R145): VF untouched. -/
def execXorVxVy (x y : Nibble) (s : State) : Answer := .next (s.setV x (s.getV x ^^^ s.getV y)).advance

/-- 8xy4 (R146). -/
def execAddVxVy (x y : Nibble) (s : State) : Answer :=
  .next (s.writeFlagged x (addFlag (s.getV x) (s.getV y)) (s.getV x + s.getV y)).advance

/-- 8xy5 (R147). -/
def execSubVxVy (x y : Nibble) (s : State) : Answer :=
  .next (s.writeFlagged x (greaterFlag (s.getV x) (s.getV y)) (s.getV x - s.getV y)).advance

/-- 8xy6 (R148): shifts `V[x]`; the field y is ignored. -/
def execShrVx (x _y : Nibble) (s : State) : Answer :=
  .next (s.writeFlagged x (shrFlag (s.getV x)) (s.getV x >>> 1)).advance

/-- 8xy7 (R149): the subtraction reversed, the destination still `V[x]`. -/
def execSubnVxVy (x y : Nibble) (s : State) : Answer :=
  .next (s.writeFlagged x (greaterFlag (s.getV y) (s.getV x)) (s.getV y - s.getV x)).advance

/-- 8xyE (R150): shifts `V[x]`; the field y is ignored. -/
def execShlVx (x _y : Nibble) (s : State) : Answer :=
  .next (s.writeFlagged x (shlFlag (s.getV x)) (s.getV x <<< 1)).advance

/-- 8xyN with any other N (R151): "no-op other than pc advance". -/
def execNop8 (_x _y _n : Nibble) (s : State) : Answer := .next s.advance

end Sys2Proof.Machine
end

