-- ==== Sys2Proof/Machine/Operands.lean ====
section
/-! DEFINITION. The operand forms (spec/30_encoding.md rule R73, spec/47_misc_f.md rule R200): the 12-bit address, the
index register as a base, the registers 0 to x, the digits of a byte, the glyph address, and the inputs of the Tick. -/

namespace Sys2Proof.Machine

/-- `zext_16(nnn)`: the address operand, absolute (R73). -/
def addrOperand (nnn : Addr) : Word := nnn.setWidth 16

/-- `nnn + V[0]`, not reduced modulo 4096 (R113). -/
def indexedTarget (s : State) (nnn : Addr) : Word := BitVec.ofNat 16 (nnn.toNat + (s.getV 0).toNat)

/-- The base address of the memory instructions, over the unbounded integers (R56, R200). -/
def State.base (s : State) : Nat := s.i.toNat

/-- The number of registers that Fx55 and Fx65 move: the field `x` is a count, registers 0 to x inclusive (R73, C2). -/
def regCount (x : Nibble) : Nat := x.toNat + 1

/-- `V[k]`, `V[k+1]`, …, n registers, for the register dump (R197). -/
def State.regsFrom (s : State) (k : Nat) : Nat → List Byte
  | 0 => []
  | n + 1 => s.getV (BitVec.ofNat 4 k) :: s.regsFrom (k + 1) n

/-- `V[k] <- memory[base + k]` for the first n registers, in rising order (R198). -/
def State.loadRegs (s : State) (base : Nat) : Nat → State
  | 0 => s
  | k + 1 => (s.loadRegs base k).setV (BitVec.ofNat 4 k) (Memory.byteAt s.mem (base + k))

/-- `i + n mod 65536` (R23, R152, decision D13, log entry 15). -/
def indexPlus (i : Word) (n : Nat) : Word := BitVec.ofNat 16 (i.toNat + n)

/-- `v * 5`, the whole byte multiplied (R195, decision D19, log entry 18). -/
def glyphAddr (v : Byte) : Word := BitVec.ofNat 16 (v.toNat * 5)

/-- Hundreds, tens and ones of a byte, each in a byte of its own (R196). -/
def bcdDigits (v : Byte) : List Byte :=
  [BitVec.ofNat 8 (v.toNat / 100), BitVec.ofNat 8 (v.toNat / 10 % 10), BitVec.ofNat 8 (v.toNat % 10)]

/-- `Key(k)`: bit k of the `keys` input of the current Tick (R14, R180). -/
def State.key (s : State) (k : Nat) : Bool := s.tickKeys.getLsbD k

/-- `Rand()`: the `rnd` input of the current Tick (R14, R134). -/
def State.rand (s : State) : Byte := s.tickRnd

end Sys2Proof.Machine
end

