-- ==== Sys2Proof/Machine/ControlFlow.lean ====
section
/-! DEFINITION. RET, JP, CALL, JP V0 (spec/41_control_flow.md rules R110 to R113). -/

namespace Sys2Proof.Machine

/-- 00EE (R110): StackUnderflow at level -1; else `pc <- stack[stackLevel] + 2`, the level lowered. -/
def execRet (s : State) : Answer :=
  match s.stackLevel with
  | none => raise .stackUnderflow s.pc s
  | some k => .next ((s.popFrom k).setPc (s.stack[k.val] + 2))

/-- 1nnn (R111). -/
def execJp (nnn : Addr) (s : State) : Answer := .next (s.setPc (addrOperand nnn))

/-- 2nnn (R112): StackOverflow at level 15; else the address of this Call is pushed. -/
def execCall (nnn : Addr) (s : State) : Answer :=
  match nextSlot s.stackLevel with
  | none => raise .stackOverflow s.pc s
  | some k => .next ((s.pushAt k s.pc).setPc (addrOperand nnn))

/-- Bnnn (R113). -/
def execJpV0 (nnn : Addr) (s : State) : Answer := .next (s.setPc (indexedTarget s nnn))

end Sys2Proof.Machine
end

