-- ==== Sys2Proof/Machine/Frame.lean ====
section
/-! DEFINITION. The operations of the frame buffer, `clear` and `draw`, and with them the collision_detector
(spec/45_display.md rules R160, R162, R165, R166). -/

namespace Sys2Proof.Machine

/-- `FB[c][r]` (R12). -/
def FrameBuffer.cell (f : FrameBuffer) (c : Fin 64) (r : Fin 32) : Bool := (f[c.val]'(c.isLt))[r.val]'(r.isLt)

/-- `FB[c][r] <- b` (R12). -/
def FrameBuffer.setCell (f : FrameBuffer) (c : Fin 64) (r : Fin 32) (b : Bool) : FrameBuffer :=
  f.set c.val ((f[c.val]'(c.isLt)).set r.val b r.isLt) c.isLt

/-- The grid with every cell off (R160). -/
def FrameBuffer.blank : FrameBuffer := Vector.replicate 64 (Vector.replicate 32 false)

/-- A draw in progress: the grid, and the accumulator of the collision_detector (R165). -/
structure Drawing where
  grid : FrameBuffer
  collision : Bool
deriving DecidableEq, Repr

/-- One sprite bit at column `col` (not reduced) and row `row`: a set bit on a column up to 63 toggles its cell and
reports whether the cell was on; a clear bit and a clipped column do nothing (R162; the clip is decision D4, DESIGN
CHOICE of the spec, unsafe, log entry 9). -/
def Drawing.plot (d : Drawing) (col : Nat) (row : Fin 32) (bit : Bool) : Drawing :=
  if h : col < 64 then
    if bit then
      { grid := d.grid.setCell ⟨col, h⟩ row (!d.grid.cell ⟨col, h⟩ row)
        collision := d.collision || d.grid.cell ⟨col, h⟩ row }
    else d
  else d

/-- The bits `b`, …, 7 of one sprite row in that order, bit 7 of the byte being the leftmost pixel (R162). The second
argument is how many bits are left. -/
def Drawing.plotByte (px : Nat) (row : Fin 32) (byte : Byte) : Nat → Drawing → Drawing
  | 0, d => d
  | n + 1, d => Drawing.plotByte px row byte n (d.plot (px + (7 - n)) row (byte.getLsbD n))

/-- The grid row of sprite row `r`: `(py + r) mod 32`, the sum over the integers (R162, R166). -/
def gridRow (py r : Nat) : Fin 32 := ⟨(py + r) % 32, Nat.mod_lt _ (by decide)⟩

/-- The sprite rows from row `r` on, top to bottom (R162). -/
def Drawing.plotRows (px py : Nat) : Nat → List Byte → Drawing → Drawing
  | _, [], d => d
  | r, byte :: rest, d => Drawing.plotRows px py (r + 1) rest (Drawing.plotByte px (gridRow py r) byte 8 d)

/-- `FB.draw(sprite, px, py)`: the new grid, and whether any collision occurred across the whole sprite (R162). -/
def FrameBuffer.draw (f : FrameBuffer) (sprite : List Byte) (px py : Nat) : Drawing :=
  Drawing.plotRows px py 0 sprite { grid := f, collision := false }

end Sys2Proof.Machine
end

