-- ==== Sys2Proof/Machine/Display.lean ====
section
/-! DEFINITION. CLS and DRW (spec/45_display.md rules R161, R163, R164). -/

namespace Sys2Proof.Machine

/-- 00E0 (R161). -/
def execCls (s : State) : Answer := .next (s.setFb FrameBuffer.blank).advance

/-- Dxyn (R163): the coordinates are read first; MemoryOutOfBounds when one of the n sprite bytes lies above 4095,
before the frame buffer is touched; VF is always written. -/
def execDrw (x y n : Nibble) (s : State) : Answer :=
  if rangeOk s.base n.toNat then
    let d := s.fb.draw (Memory.bytesAt s.mem s.base n.toNat) (s.getV x).toNat (s.getV y).toNat
    .next ((s.setFb d.grid).setV vf (flagByte d.collision)).advance
  else raise .memoryOutOfBounds s.i s

end Sys2Proof.Machine
end

