-- ==== Sys2Proof/Machine/Keypad.lean ====
section
/-! DEFINITION. SKP, SKNP and the first part of LD Vx,K (spec/46_keypad.md rules R181 to R184). The second part of LD
Vx,K, the completion by a KeyEvent, is `State.keyEvent` in Tick.lean. -/

namespace Sys2Proof.Machine

/-- The fault of a key index above 15, with `fault_info = V[x]` (R184, decision D8). DESIGN CHOICE of the spec, safe
(log entry 11). -/
def raiseKeyIndex (k : Byte) (s : State) : Answer := raise .keyIndexOutOfRange (k.setWidth 16) s

/-- Ex9E (R181). -/
def execSkpVx (x : Nibble) (s : State) : Answer :=
  if (s.getV x).toNat > 15 then raiseKeyIndex (s.getV x) s else .next (s.skipIf (s.key (s.getV x).toNat))

/-- ExA1 (R182). -/
def execSknpVx (x : Nibble) (s : State) : Answer :=
  if (s.getV x).toNat > 15 then raiseKeyIndex (s.getV x) s else .next (s.skipIf (!s.key (s.getV x).toNat))

/-- Fx0A, part 1 (R183): the wait always suspends, whatever `keys` holds; pc is held. -/
def execLdVxK (x : Nibble) (s : State) : Answer := .next (s.suspend x)

end Sys2Proof.Machine
end

