-- ==== Sys2Proof/Machine/LoadAddRandom.lean ====
section
/-! DEFINITION. Immediate loads, immediate add, random (spec/43_load_add_random.md rules R130 to R134). -/

namespace Sys2Proof.Machine

/-- 6xkk (R130). -/
def execLdVxKk (x : Nibble) (kk : Byte) (s : State) : Answer := .next (s.setV x kk).advance

/-- 7xkk (R131): modulo 256, no flag. -/
def execAddVxKk (x : Nibble) (kk : Byte) (s : State) : Answer := .next (s.setV x (s.getV x + kk)).advance

/-- Annn (R132). -/
def execLdINnn (nnn : Addr) (s : State) : Answer := .next (s.setI (addrOperand nnn)).advance

/-- Cxkk (R133): the random byte of this Tick, bitwise and with kk. -/
def execRndVxKk (x : Nibble) (kk : Byte) (s : State) : Answer := .next (s.setV x (s.rand &&& kk)).advance

end Sys2Proof.Machine
end

