-- ==== Sys2Proof/Machine/MiscF.lean ====
section
/-! DEFINITION. The Fxkk family but for Fx0A: timers, index arithmetic, glyph address, digits, register dump and load,
no-ops (spec/47_misc_f.md rules R191 to R199). -/

namespace Sys2Proof.Machine

/-- Fx07 (R191). -/
def execLdVxDt (x : Nibble) (s : State) : Answer := .next (s.setV x s.delayTimer).advance

/-- Fx15 (R192). -/
def execLdDtVx (x : Nibble) (s : State) : Answer := .next (s.setDelay (s.getV x)).advance

/-- Fx18 (R193). -/
def execLdStVx (x : Nibble) (s : State) : Answer := .next (s.setSound (s.getV x)).advance

/-- Fx1E (R194): modulo 65536, no flag. -/
def execAddIVx (x : Nibble) (s : State) : Answer := .next (s.setI (indexPlus s.i (s.getV x).toNat)).advance

/-- Fx29 (R195). -/
def execLdFVx (x : Nibble) (s : State) : Answer := .next (s.setI (glyphAddr (s.getV x))).advance

/-- Fx33 (R196): three digits from `i` on; `i` unchanged. -/
def execLdBVx (x : Nibble) (s : State) : Answer :=
  if rangeOk s.base 3 then .next (s.setMem (Memory.putBytes s.mem s.base (bcdDigits (s.getV x)))).advance
  else raise .memoryOutOfBounds s.i s

/-- Fx55 (R197): `V[0]` to `V[x]` stored from `i` on; `i` moves by x + 1. -/
def execLdMemVx (x : Nibble) (s : State) : Answer :=
  if rangeOk s.base (regCount x) then
    .next ((s.setMem (Memory.putBytes s.mem s.base (s.regsFrom 0 (regCount x)))).setI
      (indexPlus s.i (regCount x))).advance
  else raise .memoryOutOfBounds s.i s

/-- Fx65 (R198): `V[0]` to `V[x]` loaded from `i` on; `i` moves by x + 1. -/
def execLdVxMem (x : Nibble) (s : State) : Answer :=
  if rangeOk s.base (regCount x) then
    .next ((s.loadRegs s.base (regCount x)).setI (indexPlus s.i (regCount x))).advance
  else raise .memoryOutOfBounds s.i s

/-- Fxkk with any other kk (R199): "no-op other than pc advance". -/
def execNopF (_x : Nibble) (_kk : Byte) (s : State) : Answer := .next s.advance

end Sys2Proof.Machine
end

