-- ==== Sys2Proof/Machine/Skips.lean ====
section
/-! DEFINITION. The skips on register values (spec/42_skips.md rules R120 to R123). -/

namespace Sys2Proof.Machine

/-- 3xkk (R120). -/
def execSeVxKk (x : Nibble) (kk : Byte) (s : State) : Answer := .next (s.skipIf (s.getV x == kk))

/-- 4xkk (R121). -/
def execSneVxKk (x : Nibble) (kk : Byte) (s : State) : Answer := .next (s.skipIf (s.getV x != kk))

/-- 5xy0 (R122). -/
def execSeVxVy (x y : Nibble) (s : State) : Answer := .next (s.skipIf (s.getV x == s.getV y))

/-- 9xy0 (R123). -/
def execSneVxVy (x y : Nibble) (s : State) : Answer := .next (s.skipIf (s.getV x != s.getV y))

end Sys2Proof.Machine
end

