-- ==== Sys2Proof/Machine/Tick.lean ====
section
/-! DEFINITION. The three host events (spec/00_scope.md rule R7) and what each does: the Tick with its timer countdown,
fetch and decode (spec/40_tick_cycle.md rules R90 to R96), the KeyEvent (spec/46_keypad.md rule R183), the Reset
(spec/70_reset_and_hazards.md rule R240), and which event comes next. -/

namespace Sys2Proof.Machine

/-- One timer's countdown: "decremented by one per tick while > 0; floor at 0" (R91). -/
def countdown (t : Byte) : Byte := if t.toNat > 0 then t - 1 else t

/-- `timer_countdown()` (R91): the two timers, independently (cadence: decision D16, log entry 16). -/
def State.timerCountdown (s : State) : State :=
  (s.setDelay (countdown s.delayTimer)).setSound (countdown s.soundTimer)

/-- The arguments of a Tick put where Ex9E, ExA1 and Cxkk find them (R7, R29). -/
def State.sampleInputs (s : State) (keys : BitVec 16) (rnd : Byte) : State :=
  { s with tickKeys := keys, tickRnd := rnd }

/-- The fetch (R57, R92): the big-endian word at `pc`, `none` when `pc + 1 > 4095`; any parity of pc. -/
def State.fetchWord (s : State) : Option Word :=
  if s.pc.toNat + 1 > 4095 then none
  else some (wordOfBytes (Memory.byteAt s.mem s.pc.toNat) (Memory.byteAt s.mem (s.pc.toNat + 1)))

/-- Fetch, decode, execute: steps 2 to 4 of a Tick (R90, R92, R93). -/
def fetchExecute (s : State) : Answer :=
  match s.fetchWord with
  | none => raise .memoryOutOfBounds s.pc s
  | some w =>
    match decode w with
    | .instr i => exec i s
    | .unrecognized u => raise .unrecognizedOpcode u s

/-- `Tick(keys, rnd)` (R90); idle outside RUNNING (R95, R213). -/
def tick (keys : BitVec 16) (rnd : Byte) (s : State) : Answer :=
  match s.runState with
  | .running => fetchExecute (s.sampleInputs keys rnd).timerCountdown
  | .waitKey => .next s
  | .halted => .next s

/-- `KeyEvent(k)` (R183, part 2): it completes a pending wait, without a timer decrement; elsewhere it changes nothing
(decision D21, log entry 23). -/
def State.keyEvent (s : State) (k : Nibble) : State :=
  match s.runState with
  | .waitKey => (s.setV s.waitX (k.setWidth 8)).advance.resume
  | .running => s
  | .halted => s

/-- `Reset(IMAGE)` (R240, R32): the reset state with the image from 0x200 on. The host's own events go on as they
were. -/
def State.resetWith (s : State) (image : List Byte) : State :=
  { State.reset with
    mem := Memory.putBytes State.reset.mem Config.progBase image
    events := s.events
    eventIndex := s.eventIndex }

/-- One host event, handled to completion (R7). A Reset with an image over 3584 bytes is the loader's to refuse
(R225, log entry 22). -/
def deliver (e : HostEvent) (s : State) : Answer :=
  match e with
  | .reset image =>
    if image.length ≤ Config.progMax then .next (s.resetWith image) else .refused (.imageTooLong image.length)
  | .tick keys rnd => tick keys rnd s
  | .keyEvent k => .next (s.keyEvent k)

/-- The Tick with free inputs (log entry 1). -/
def State.freeTick (s : State) : HostEvent := .tick (Config.freeKeys s.eventIndex) (Config.freeRnd s.eventIndex)

/-- The event the host delivers when its list names none: a Tick with free inputs; to a block that waits for a key,
freely that or a KeyEvent. DESIGN CHOICE (log entries 2 and 3). -/
def State.freeEvent (s : State) : HostEvent :=
  match s.runState with
  | .running => s.freeTick
  | .halted => s.freeTick
  | .waitKey =>
    match Config.freeKeyEvent s.eventIndex with
    | some k => .keyEvent k
    | none => s.freeTick

/-- The next host event: the oldest of the list, else a free one. -/
def State.nextEvent (s : State) : HostEvent :=
  match s.events with
  | e :: _ => e
  | [] => s.freeEvent

/-- The host's side after the next event is taken. -/
def State.takeEvent (s : State) : State := { s with events := s.events.tail, eventIndex := s.eventIndex + 1 }

/-- A Tick, among the host's events. -/
def HostEvent.isTick : HostEvent → Bool
  | .tick _ _ => true
  | .reset _ => false
  | .keyEvent _ => false

/-- Where an instruction is placed for the next fetch: `pc`, or the entry point when no word fits at `pc`. -/
def State.placeAt (s : State) : Word := if s.pc.toNat + 1 > 4095 then BitVec.ofNat 16 Config.progBase else s.pc

/-- The word `w` placed where the next step fetches it: in memory at `pc`, the block running, and a Tick the next
event. It stands for the loader (R225, log entry 24). -/
def State.placeWord (s : State) (w : Word) : State :=
  { s with
    pc := s.placeAt
    mem := Memory.putBytes s.mem s.placeAt.toNat (wordBytes w)
    runState := .running
    events := s.events.dropWhile (fun e => !e.isTick) }

end Sys2Proof.Machine
end

