-- ==== Sys2Proof/Machine/Step.lean ====
section
/-! DEFINITION. One step of the machine: the next host event, handled to completion (spec/00_scope.md rule R7). -/

namespace Sys2Proof.Machine

/-- One step: the next event is taken from the host and handled to completion (R7). -/
def step (s : State) : Host.Outcome State Fault Refusal := deliver s.nextEvent s.takeEvent

/-- `s` with the instruction whose bits are `w` placed where `step` fetches its next instruction. Every instruction
has 16 bits (R70). -/
def State.withFetchWord (s : State) (nbits w : Nat) : State := s.placeWord (BitVec.ofNat 16 (w % 2 ^ nbits))

end Sys2Proof.Machine
end

