-- ==== Sys2Proof/Safety.lean ====
section
/-! DEFINITION. What a safe state is, the invariants of the machine, and the words claims use: what an instruction
leaves unchanged, which instructions write what, and the cell-by-cell reading of a sprite. -/

namespace Sys2Proof.Machine

/-- No fault has been raised: "a halted state is a faulted state, it is never the good end of a run" (R213). -/
abbrev State.safe (s : State) : Prop := s.runState ≠ .halted

/-! ### Invariants -/

/-- Memory is in its canonical form. -/
abbrev State.memOk (s : State) : Prop := s.mem.wf = true

/-- `wait_x` is zero outside WAIT_KEY, and the fault record is zero outside HALTED and names a fault in it (R28,
R211). -/
abbrev State.statusOk (s : State) : Prop :=
  (s.runState ≠ .waitKey → s.waitX = 0) ∧
  (s.runState ≠ .halted → s.faultCode = .noFault ∧ s.faultInfo = 0) ∧
  (s.runState = .halted → s.faultCode ≠ .noFault)

/-- "while the block waits, `pc` still addresses the Fx0A word ... `wait_x` always equals bits 11:8 of the word at
`pc`" (R28). -/
abbrev State.waitOk (s : State) : Prop :=
  s.runState = .waitKey → s.fetchWord = some (encode (.ldVxK s.waitX))

/-- `stackLevel` as the spec's integer, -1 to 15 (R25). -/
def State.level (s : State) : Int :=
  match s.stackLevel with
  | none => -1
  | some k => k.val

/-- Slot `k` holds the saved pc of an active call: `k ≤ stackLevel` (R25). -/
abbrev State.activeSlot (s : State) (k : Fin 16) : Prop := ∃ top, s.stackLevel = some top ∧ k ≤ top

/-- "the largest value any instruction can produce is 0xFFF + 0xFF = 0x10FE" (R24), "A saved value is always at most
4094" (R92), and a waiting block stands at a word it could fetch. -/
abbrev State.pcOk (s : State) : Prop :=
  s.pc.toNat ≤ 0x10FE ∧ (s.runState = .waitKey → s.pc.toNat ≤ 4094) ∧
  ∀ k : Fin 16, s.activeSlot k → (s.stack[k.val]).toNat ≤ 4094

/-! ### What is unchanged from `s` to `t` -/

/-- Every V register. -/
def SameRegs (s t : State) : Prop := ∀ k, t.getV k = s.getV k

/-- Every V register but `V[x]`. -/
def SameRegsBut (x : Nibble) (s t : State) : Prop := ∀ k, k ≠ x → t.getV k = s.getV k

/-- Every byte of memory. -/
def SameMem (s t : State) : Prop := ∀ a, Memory.byteAt t.mem a = Memory.byteAt s.mem a

/-- Every byte of memory outside the `count` bytes from `base` on. -/
def SameMemBut (base count : Nat) (s t : State) : Prop :=
  ∀ a, (a < base ∨ base + count ≤ a) → Memory.byteAt t.mem a = Memory.byteAt s.mem a

/-- The call stack: its level and every slot. -/
def SameStack (s t : State) : Prop := t.stackLevel = s.stackLevel ∧ ∀ k : Fin 16, t.stack[k.val] = s.stack[k.val]

/-- Both timers. -/
def SameTimers (s t : State) : Prop := t.delayTimer = s.delayTimer ∧ t.soundTimer = s.soundTimer

/-- Every cell of the frame buffer. -/
def SameGrid (s t : State) : Prop := ∀ c r, t.fb.cell c r = s.fb.cell c r

/-- The run state, the wait register and the fault record. -/
def SameStatus (s t : State) : Prop :=
  t.runState = s.runState ∧ t.waitX = s.waitX ∧ t.faultCode = s.faultCode ∧ t.faultInfo = s.faultInfo

/-- The model's own fields, which hold the host's events. -/
def SameHost (s t : State) : Prop :=
  t.tickKeys = s.tickKeys ∧ t.tickRnd = s.tickRnd ∧ t.events = s.events ∧ t.eventIndex = s.eventIndex

/-- Everything an instruction that writes only registers, timers, `i`, the grid and `pc` leaves alone: memory, the call
stack, the run state with its record, and the host's side. -/
def SameDeep (s t : State) : Prop := SameMem s t ∧ SameStack s t ∧ SameStatus s t ∧ SameHost s t

/-- Everything but the V registers and `pc`. -/
def SameBeyondRegs (s t : State) : Prop := t.i = s.i ∧ SameTimers s t ∧ SameGrid s t ∧ SameDeep s t

/-- Everything but `pc`. -/
def SameButPc (s t : State) : Prop := SameRegs s t ∧ SameBeyondRegs s t

/-- Everything but `i` and `pc`. -/
def SameButIndexPc (s t : State) : Prop := SameRegs s t ∧ SameTimers s t ∧ SameGrid s t ∧ SameDeep s t

/-- Everything but the call stack and `pc`. -/
def SameButStackPc (s t : State) : Prop :=
  SameRegs s t ∧ t.i = s.i ∧ SameTimers s t ∧ SameGrid s t ∧ SameMem s t ∧ SameStatus s t ∧ SameHost s t

/-- Everything but memory, `i` and `pc`. -/
def SameButMemIndexPc (s t : State) : Prop :=
  SameRegs s t ∧ SameTimers s t ∧ SameGrid s t ∧ SameStack s t ∧ SameStatus s t ∧ SameHost s t

/-- `V[x]` is written and nothing else but `pc`, which moves on by 2. -/
def WritesRegister (x : Nibble) (s t : State) : Prop := SameRegsBut x s t ∧ SameBeyondRegs s t ∧ t.pc = s.pc + 2

/-- A flag-writing instruction: `V[x]` has its result, VF the flag unless x is 15 (the result then stays), and nothing
else changes but `pc`, which moves on by 2 (R141). -/
def WritesRegisterAndFlag (x : Nibble) (flag : Byte) (s t : State) : Prop :=
  (x ≠ 15 → t.getV 15 = flag) ∧ (∀ k, k ≠ x → k ≠ 15 → t.getV k = s.getV k) ∧ SameBeyondRegs s t ∧
    t.pc = s.pc + 2

/-- The state of the spec (R20), `pc` and all, with only the host's side moved on. -/
def SameMachine (s t : State) : Prop :=
  t.pc = s.pc ∧ SameRegs s t ∧ t.i = s.i ∧ SameMem s t ∧ SameStack s t ∧ SameTimers s t ∧ SameGrid s t ∧
    SameStatus s t

/-- From `s` to `t` the fault `f` was raised with `info`, and nothing else happened (R212). -/
def Halts (f : FaultCode) (info : Word) (s t : State) : Prop :=
  t.runState = .halted ∧ t.faultCode = f ∧ t.faultInfo = info ∧
  t.pc = s.pc ∧ SameRegs s t ∧ t.i = s.i ∧ SameMem s t ∧ SameStack s t ∧ SameTimers s t ∧ SameGrid s t ∧
  t.waitX = s.waitX ∧ SameHost s t

/-- The word at `pc` can be fetched and decodes to `i`. -/
def State.fetches (s : State) (i : Instr) : Prop := ∃ w, s.fetchWord = some w ∧ decode w = .instr i

/-- `s` as the instruction of a Tick finds it: the event taken, the inputs sampled, the timers counted down (R90). -/
def State.prepared (s : State) (keys : BitVec 16) (rnd : Byte) : State :=
  (s.takeEvent.sampleInputs keys rnd).timerCountdown

end Sys2Proof.Machine

namespace Sys2Proof

/-! ### Which instructions write what -/

/-- The V registers an instruction names as destinations (R21; without the flag side effects of R22, and without Fx0A,
whose register is written by the KeyEvent). -/
def Instr.writesReg : Instr → Nibble → Bool
  | .ldVxVy x _, k | .orVxVy x _, k | .andVxVy x _, k | .xorVxVy x _, k | .addVxVy x _, k | .subVxVy x _, k
  | .shrVx x _, k | .subnVxVy x _, k | .shlVx x _, k => k == x
  | .ldVxKk x _, k | .addVxKk x _, k | .rndVxKk x _, k | .ldVxDt x, k => k == x
  | .ldVxMem x, k => decide (k.toNat ≤ x.toNat)
  | .cls, _ | .ret, _ | .seVxVy _ _, _ | .sneVxVy _ _, _ | .skpVx _, _ | .sknpVx _, _ | .ldVxK _, _ | .ldDtVx _, _
  | .ldStVx _, _ | .addIVx _, _ | .ldFVx _, _ | .ldBVx _, _ | .ldMemVx _, _ | .jp _, _ | .call _, _
  | .seVxKk _ _, _ | .sneVxKk _ _, _ | .nop8 _ _ _, _ | .ldINnn _, _ | .jpV0 _, _ | .drw _ _ _, _
  | .nopF _ _, _ => false

/-- The six instructions that write VF as a side effect (R22). -/
def Instr.writesFlag : Instr → Bool
  | .addVxVy _ _ | .subVxVy _ _ | .shrVx _ _ | .subnVxVy _ _ | .shlVx _ _ | .drw _ _ _ => true
  | .cls | .ret | .seVxVy _ _ | .sneVxVy _ _ | .ldVxVy _ _ | .orVxVy _ _ | .andVxVy _ _ | .xorVxVy _ _ | .skpVx _
  | .sknpVx _ | .ldVxDt _ | .ldVxK _ | .ldDtVx _ | .ldStVx _ | .addIVx _ | .ldFVx _ | .ldBVx _ | .ldMemVx _
  | .ldVxMem _ | .jp _ | .call _ | .seVxKk _ _ | .sneVxKk _ _ | .ldVxKk _ _ | .addVxKk _ _ | .nop8 _ _ _
  | .ldINnn _ | .jpV0 _ | .rndVxKk _ _ | .nopF _ _ => false

/-- The instructions that store to memory: Fx33 and Fx55 (R50, R200). -/
def Instr.storesToMemory : Instr → Bool
  | .ldBVx _ | .ldMemVx _ => true
  | .cls | .ret | .seVxVy _ _ | .sneVxVy _ _ | .ldVxVy _ _ | .orVxVy _ _ | .andVxVy _ _ | .xorVxVy _ _
  | .addVxVy _ _ | .subVxVy _ _ | .shrVx _ _ | .subnVxVy _ _ | .shlVx _ _ | .skpVx _ | .sknpVx _ | .ldVxDt _
  | .ldVxK _ | .ldDtVx _ | .ldStVx _ | .addIVx _ | .ldFVx _ | .ldVxMem _ | .jp _ | .call _ | .seVxKk _ _
  | .sneVxKk _ _ | .ldVxKk _ _ | .addVxKk _ _ | .nop8 _ _ _ | .ldINnn _ | .jpV0 _ | .rndVxKk _ _ | .drw _ _ _
  | .nopF _ _ => false

end Sys2Proof

namespace Sys2Proof.Machine

/-! ### A sprite, cell by cell -/

/-- Whether a sprite of `n` rows in memory at `base`, drawn with its top-left pixel at `(px, py)`, has a set bit on
the cell in column `c` and row `r`: sprite row `k` lies on grid row `(py + k) mod 32`, and its leftmost pixel, bit 7,
on column `px`, not reduced (R162, R166). -/
def spriteCovers (m : Memory) (base n px py : Nat) (c : Fin 64) (r : Fin 32) : Bool :=
  (List.range n).any fun k =>
    decide ((py + k) % 32 = r.val) && decide (px ≤ c.val) && decide (c.val < px + 8) &&
      (Memory.byteAt m (base + k)).getLsbD (7 - (c.val - px))

end Sys2Proof.Machine
end

