-- ==== Sys2Proof/Certificates/Slice0/Obligations.lean ====
section
/-! DEFINITION. The statements for the provers, each with the rules of spec/ it formalises. Words used: `Halts f info s t`
(from s to t the fault f was raised and nothing else happened), `SameButPc`, `SameBeyondRegs` and the other frames
of Sys2Proof/Safety.lean, `Memory.byteAt` (the model's read of one byte), `State.prepared` (the state an instruction
finds: event taken, inputs sampled, timers counted down). -/

open Sys2Proof Sys2Proof.Machine

/-! ### Reset, Tick and KeyEvent -/

/-- R32, R240: `Reset(IMAGE)` from any state gives every piece of state its reset value, with the font, the image from
0x200 and zeros in memory; and the state after reset is that of the empty image (R225, R244). The values of the run
state and its record are the spec's own choice (decision D17), and the font's bytes those of R52 (log entry 12). -/
def Obligations.ResetGivesTheResetValues : Prop :=
  ∀ (s : State) (image : List Byte) (rest : List HostEvent), image.length ≤ 3584 →
    s.events = .reset image :: rest →
    ∃ t, step s = .next t ∧
      (∀ a, a < 4096 → Memory.byteAt t.mem a =
        if a < 0x50 then Config.font.getD a 0
        else if 0x200 ≤ a ∧ a < 0x200 + image.length then image.getD (a - 0x200) 0 else 0) ∧
      (∀ k, t.getV k = 0) ∧ t.i = 0 ∧ t.pc = 0x200 ∧ t.level = -1 ∧ (∀ k : Fin 16, t.stack[k.val] = 0) ∧
      t.delayTimer = 0 ∧ t.soundTimer = 0 ∧ (∀ c r, t.fb.cell c r = false) ∧ t.runState = .running ∧ t.waitX = 0 ∧
      t.faultCode.code = 0 ∧ t.faultInfo = 0 ∧ t.events = rest ∧
      (image = [] → SameMachine t State.reset)

/-- R225, R224: a Reset with an image longer than 3584 bytes has no meaning for the core; the step is refused by name
(the form of the refusal is the model's, log entry 22). -/
def Obligations.OverlongImageIsRefused : Prop :=
  ∀ (s : State) (image : List Byte) (rest : List HostEvent), image.length > 3584 →
    s.events = .reset image :: rest → step s = .refused (.imageTooLong image.length)

/-- R90, R92, R93: a Tick taken in RUNNING whose word at pc decodes to i is exec of i on the prepared state: the event
taken (the model's own, log entry 2), keys and rnd sampled, the timers counted down first. With no event pending a
running block is given a Tick. The prepared state holds exactly this Tick's keys and rnd (R7; where they stand is the
model's own, log entry 4) and the counted-down timers, and is else as before. -/
def Obligations.StepRunsTheDecodedInstruction : Prop :=
  (∀ (s : State) (keys : BitVec 16) (rnd : Byte) (i : Instr), s.runState = .running →
    s.nextEvent = .tick keys rnd → s.pc.toNat ≤ 4094 →
    decode (wordOfBytes (Memory.byteAt s.mem s.pc.toNat) (Memory.byteAt s.mem (s.pc.toNat + 1))) = .instr i →
    step s = exec i (s.prepared keys rnd)) ∧
  (∀ s : State, s.runState = .running → s.events = [] → ∃ keys rnd, s.nextEvent = .tick keys rnd) ∧
  (∀ (s : State) (keys : BitVec 16) (rnd : Byte),
    (s.prepared keys rnd).tickKeys = keys ∧ (s.prepared keys rnd).tickRnd = rnd ∧
    (s.prepared keys rnd).delayTimer.toNat = s.delayTimer.toNat - 1 ∧
    (s.prepared keys rnd).soundTimer.toNat = s.soundTimer.toNat - 1 ∧
    (s.prepared keys rnd).pc = s.pc ∧ SameRegs s (s.prepared keys rnd) ∧ (s.prepared keys rnd).i = s.i ∧
    SameMem s (s.prepared keys rnd) ∧ SameStack s (s.prepared keys rnd) ∧ SameGrid s (s.prepared keys rnd) ∧
    SameStatus s (s.prepared keys rnd) ∧ (s.prepared keys rnd).events = s.events.tail)

/-- R92: the word fetched is `memory[pc] * 256 + memory[pc+1]`; with pc above 4094 the Tick halts with
MemoryOutOfBounds, code 4 (R210), and `fault_info = pc`, after the timer decrement (decisions D5, D6 and D12, log entries
5, 10 and 14). -/
def Obligations.FetchIsBigEndianAndBounded : Prop :=
  ∀ s : State,
    (s.pc.toNat ≤ 4094 → ∃ w, s.fetchWord = some w ∧
      w.toNat = (Memory.byteAt s.mem s.pc.toNat).toNat * 256 + (Memory.byteAt s.mem (s.pc.toNat + 1)).toNat) ∧
    (∀ keys rnd, s.runState = .running → s.nextEvent = .tick keys rnd → s.pc.toNat > 4094 →
      ∃ t, step s = .next t ∧ Halts .memoryOutOfBounds s.pc (s.prepared keys rnd) t ∧ t.faultCode.code = 4)

/-- R93, R79, R210: a Tick that fetches a word of no row halts with UnrecognizedOpcode, code 1, the raw word in
`fault_info`, after the timer decrement (decisions D2, D5 and D6, log entries 5, 10 and 17). -/
def Obligations.UnrecognizedWordHalts : Prop :=
  ∀ (s : State) (keys : BitVec 16) (rnd : Byte) (w : Word), s.runState = .running → s.nextEvent = .tick keys rnd →
    s.fetchWord = some w → decode w = .unrecognized w →
    ∃ t, step s = .next t ∧ Halts .unrecognizedOpcode w (s.prepared keys rnd) t ∧ t.faultCode.code = 1

/-- R91: each timer is decremented by one per Tick taken in RUNNING, with floor 0, before the instruction, whatever the
Tick does (a fault included); Fx15 and Fx18 then write theirs, and Fx07 reads the decremented value (R191, R192,
R193). The cadence is the spec's own choice (decision D16, log entry 16). -/
def Obligations.TimersCountDownOncePerTick : Prop :=
  ∀ (s t : State) (keys : BitVec 16) (rnd : Byte), s.runState = .running → s.nextEvent = .tick keys rnd →
    step s = .next t →
    ((∀ x, ¬ s.fetches (.ldDtVx x)) → t.delayTimer.toNat = s.delayTimer.toNat - 1) ∧
    ((∀ x, ¬ s.fetches (.ldStVx x)) → t.soundTimer.toNat = s.soundTimer.toNat - 1) ∧
    (∀ x, s.fetches (.ldDtVx x) → t.delayTimer = s.getV x) ∧
    (∀ x, s.fetches (.ldStVx x) → t.soundTimer = s.getV x) ∧
    (∀ x, s.fetches (.ldVxDt x) → (t.getV x).toNat = s.delayTimer.toNat - 1)

/-- R95, R213: a Tick taken in WAIT_KEY or HALTED changes nothing of the machine (decisions D7 and D23, log entries 6
and 30). -/
def Obligations.TickOutsideRunningIsIdle : Prop :=
  ∀ (s : State) (keys : BitVec 16) (rnd : Byte), s.runState ≠ .running → s.nextEvent = .tick keys rnd →
    ∃ t, step s = .next t ∧ SameMachine s t

/-- R183 part 2: a KeyEvent in WAIT_KEY writes the index to the waiting register, moves pc on by 2 and returns to
RUNNING, without a timer decrement; in RUNNING or HALTED it changes nothing (decisions D7 and D21, log entries 23 and
30). -/
def Obligations.KeyEventCompletesTheWait : Prop :=
  ∀ (s : State) (k : Nibble), s.nextEvent = .keyEvent k →
    (s.runState = .waitKey → ∃ t, step s = .next t ∧ (t.getV s.waitX).toNat = k.toNat ∧ SameRegsBut s.waitX s t ∧
      t.pc = s.pc + 2 ∧ t.waitX = 0 ∧ t.runState = .running ∧ t.i = s.i ∧ SameMem s t ∧ SameStack s t ∧
      SameTimers s t ∧ SameGrid s t ∧ t.faultCode = s.faultCode ∧ t.faultInfo = s.faultInfo) ∧
    (s.runState ≠ .waitKey → ∃ t, step s = .next t ∧ SameMachine s t)

/-- R183, R227: any number of Ticks leaves a waiting block as it is, and the KeyEvent after them completes the wait:
everything but the waiting register, pc, `wait_x` and the run state is at the end of the run as it was before it, the
timers among it (decision D7, log entry 30). -/
def Obligations.WaitOutlastsAnyTicks : Prop :=
  ∀ (s : State) (ticks rest : List HostEvent) (k : Nibble), s.runState = .waitKey →
    s.events = ticks ++ .keyEvent k :: rest → (∀ e ∈ ticks, e.isTick = true) →
    ∃ t, Host.Core.run core (ticks.length + 1) s = .next t ∧ t.runState = .running ∧
      (t.getV s.waitX).toNat = k.toNat ∧ SameRegsBut s.waitX s t ∧ t.pc = s.pc + 2 ∧ t.waitX = 0 ∧ t.i = s.i ∧
      SameMem s t ∧ SameStack s t ∧ SameTimers s t ∧ SameGrid s t ∧ t.faultCode = s.faultCode ∧
      t.faultInfo = s.faultInfo ∧ t.events = rest

/-- R213: as long as no Reset is delivered, a halted block stays as it is, over any number of steps (decision D23; with
no event listed the model delivers no Reset, log entry 2). -/
def Obligations.HaltedStaysUntilReset : Prop :=
  ∀ (n : Nat) (s : State), s.runState = .halted → (∀ image, .reset image ∉ s.events) →
    ∃ t, Host.Core.run core n s = .next t ∧ SameMachine s t

/-- R28, R213, R227, R241: only Reset leaves HALTED; only a KeyEvent or Reset leaves WAIT_KEY; only Fx0A, fetched in
RUNNING, enters it; a Reset gives RUNNING; and a block leaves RUNNING only by a Tick (decisions D7, D17 and D23, log
entries 6, 22 and 30). -/
def Obligations.RunStateChangesOnlyAsListed : Prop :=
  ∀ s t : State, step s = .next t →
    (s.runState = .halted → t.runState ≠ .halted → ∃ image, s.nextEvent = .reset image) ∧
    (s.runState = .waitKey → t.runState ≠ .waitKey →
      (∃ image, s.nextEvent = .reset image) ∨ (∃ k, s.nextEvent = .keyEvent k ∧ t.runState = .running)) ∧
    (s.runState ≠ .waitKey → t.runState = .waitKey → s.runState = .running ∧ s.fetches (.ldVxK t.waitX)) ∧
    (∀ image, s.nextEvent = .reset image → t.runState = .running) ∧
    (s.runState = .running → t.runState ≠ .running → ∃ keys rnd, s.nextEvent = .tick keys rnd)

/-- R29: the inputs of earlier Ticks are never read: what the model's fields for them hold before a Tick does not
matter (log entry 4). -/
def Obligations.EarlierInputsAreNeverRead : Prop :=
  ∀ (s : State) (keys keys' : BitVec 16) (rnd rnd' : Byte), s.runState = .running →
    s.nextEvent = .tick keys rnd → step (s.sampleInputs keys' rnd') = step s

/-- R210, R225: nothing but an overlong Reset stops the model: every instruction answers a next state in every state,
and so does every other step. -/
def Obligations.EveryInstructionAndStepAnswers : Prop :=
  (∀ (i : Instr) (s : State), ∃ t, exec i s = .next t) ∧
  (∀ s : State, (∀ image, s.nextEvent = .reset image → image.length ≤ 3584) → ∃ t, step s = .next t)

/-! ### Invariants -/

/-- The model's canonical form of memory (log entry 19) is kept by every step. -/
def Obligations.MemoryStaysCanonical : Prop :=
  ∀ s t : State, s.memOk → step s = .next t → t.memOk

/-- R28, R211: `wait_x` is zero outside WAIT_KEY, the fault record zero outside HALTED and a fault's in it: kept by
every step (the record is the spec's own, decisions D6 and D7). -/
def Obligations.StatusRecordStaysLegal : Prop :=
  ∀ s t : State, s.statusOk → step s = .next t → t.statusOk

/-- R28: while the block waits, the word at pc is the Fx0A word whose x is `wait_x`: kept by every step. -/
def Obligations.WaitingWordStaysAtPc : Prop :=
  ∀ s t : State, s.waitOk → step s = .next t → t.waitOk

/-- R24, R92: pc is at most 0x10FE, and every saved pc of an active call is at most 4094: kept by every step. -/
def Obligations.PcAndSavedPcsStayBounded : Prop :=
  ∀ s t : State, s.pcOk → step s = .next t → t.pcOk

/-- R32: the state after reset meets the four invariants. -/
def Obligations.ResetMeetsTheInvariants : Prop :=
  State.reset.memOk ∧ State.reset.statusOk ∧ State.reset.waitOk ∧ State.reset.pcOk

/-! ### Encoding -/

/-- R70, R75: the decoder reads back every well-formed instruction from its word, with every operand, and from its two
bytes, consuming exactly those. It says nothing of the numbers of the encoding, which are PRESUMED (log entry 7). -/
def Obligations.DecodeReadsBackEncode : Prop :=
  ∀ (i : Instr) (rest : List Byte), i.wellFormed = true →
    decode (encode i) = .instr i ∧ decodeBytes (wordBytes (encode i) ++ rest) = .instr i rest

/-- R75, R80: what the decoder reads is well formed and encodes back to the very word, so no two words have one
meaning and no bit is dropped. -/
def Obligations.EncodeReadsBackDecode : Prop :=
  ∀ (w : Word) (i : Instr), decode w = .instr i → i.wellFormed = true ∧ encode i = w

/-- R79: the unrecognized words are exactly the listed ones: 0nnn but 00E0 and 00EE, 5xyN and 9xyN with N not 0, Exkk
with kk not 9E or A1 (decision D2, log entry 17). -/
def Obligations.UnrecognizedWordsAreTheListed : Prop :=
  ∀ w : Word, decode w = .unrecognized w ↔
    (w.toNat < 0x1000 ∧ w ≠ 0x00E0 ∧ w ≠ 0x00EE) ∨
    (w.toNat / 0x1000 = 0x5 ∧ w.toNat % 16 ≠ 0) ∨
    (w.toNat / 0x1000 = 0x9 ∧ w.toNat % 16 ≠ 0) ∨
    (w.toNat / 0x1000 = 0xE ∧ w.toNat % 256 ≠ 0x9E ∧ w.toNat % 256 ≠ 0xA1)

/-- R75, and vectors DE1 to DE42 of 95_test_vectors.md: a few words written out from the patterns decode to what they
stand for (the numbers are PRESUMED, log entry 7). -/
def Obligations.WrittenWordsDecode : Prop :=
  decode 0x00E0 = .instr .cls ∧ decode 0x1ABC = .instr (.jp 0xABC) ∧ decode 0x3A42 = .instr (.seVxKk 0xA 0x42) ∧
  decode 0x8AB4 = .instr (.addVxVy 0xA 0xB) ∧ decode 0x8AB8 = .instr (.nop8 0xA 0xB 0x8) ∧
  decode 0xD125 = .instr (.drw 1 2 5) ∧ decode 0xE19E = .instr (.skpVx 1) ∧ decode 0xF155 = .instr (.ldMemVx 1) ∧
  decode 0xFFFF = .instr (.nopF 0xF 0xFF) ∧ decode 0x5AB1 = .unrecognized 0x5AB1

/-! ### Control flow -/

/-- R111, R113: JP goes to nnn; JP V0 to nnn + V[0], not reduced modulo 4096; nothing else changes. -/
def Obligations.JumpsSetOnlyThePc : Prop :=
  ∀ (s : State) (nnn : Addr),
    (∃ t, exec (.jp nnn) s = .next t ∧ t.pc.toNat = nnn.toNat ∧ SameButPc s t) ∧
    (∃ t, exec (.jpV0 nnn) s = .next t ∧ t.pc.toNat = nnn.toNat + (s.getV 0).toNat ∧ SameButPc s t)

/-- R112: CALL pushes its own address on the next slot and goes to nnn; at level 15 it halts with StackOverflow,
`fault_info = pc`, before anything changes (that nothing but the run state and the record changes, as a next state, rests
on decisions D5 and D6, log entries 5, 6 and 10). -/
def Obligations.CallPushesItsOwnAddress : Prop :=
  ∀ (s : State) (nnn : Addr),
    (s.level < 15 → ∃ t k, exec (.call nnn) s = .next t ∧ t.level = s.level + 1 ∧ t.stackLevel = some k ∧
      t.stack[k.val] = s.pc ∧ (∀ j : Fin 16, j ≠ k → t.stack[j.val] = s.stack[j.val]) ∧
      t.pc.toNat = nnn.toNat ∧ SameButStackPc s t) ∧
    (s.level = 15 → ∃ t, exec (.call nnn) s = .next t ∧ Halts .stackOverflow s.pc s t)

/-- R110: RET goes to the top saved pc plus 2 and lowers the level, every slot keeping its value; at level -1 it halts
with StackUnderflow, `fault_info = pc`, before anything changes. That the popped slot keeps its value is decision D22
(log entry 21), and what the halt leaves rests on decisions D5 and D6 (log entries 5, 6 and 10). -/
def Obligations.ReturnPopsTheSavedPc : Prop :=
  ∀ s : State,
    (∀ k, s.stackLevel = some k → ∃ t, exec .ret s = .next t ∧ t.level = s.level - 1 ∧
      t.pc = s.stack[k.val] + 2 ∧ (∀ j : Fin 16, t.stack[j.val] = s.stack[j.val]) ∧ SameButStackPc s t) ∧
    (s.level = -1 → ∃ t, exec .ret s = .next t ∧ Halts .stackUnderflow s.pc s t)

/-- R114: a subroutine that leaves the call stack as it found it returns to the instruction after the Call, with the
level restored. -/
def Obligations.ReturnResumesAfterTheCall : Prop :=
  ∀ (s t u : State) (nnn : Addr), s.level < 15 → exec (.call nnn) s = .next t → SameStack t u →
    ∃ v, exec .ret u = .next v ∧ v.pc = s.pc + 2 ∧ v.stackLevel = s.stackLevel

/-- R94, R115: an instruction that raises no fault moves pc on by 2, unless it is one of the listed: a jump, call or
return, a skip (by 4), or the key wait (held). -/
def Obligations.PcMovesOnlyAsListed : Prop :=
  ∀ (i : Instr) (s t : State), s.safe → exec i s = .next t → t.safe →
    t.pc = s.pc + 2 ∨
    (t.pc = s.pc + 4 ∧ ((∃ x y, i = .seVxVy x y ∨ i = .sneVxVy x y) ∨
      (∃ x kk, i = .seVxKk x kk ∨ i = .sneVxKk x kk) ∨ (∃ x, i = .skpVx x ∨ i = .sknpVx x))) ∨
    (∃ nnn, (i = .jp nnn ∨ i = .call nnn) ∧ t.pc.toNat = nnn.toNat) ∨
    (∃ nnn, i = .jpV0 nnn ∧ t.pc.toNat = nnn.toNat + (s.getV 0).toNat) ∨
    (i = .ret ∧ ∃ k, s.stackLevel = some k ∧ t.pc = s.stack[k.val] + 2) ∨
    (∃ x, i = .ldVxK x ∧ t.pc = s.pc)

/-- R120 to R123: the skips compare the bytes and move pc on by 4 or 2; nothing else changes. -/
def Obligations.SkipsCompareBytes : Prop :=
  ∀ (s : State) (x y : Nibble) (kk : Byte),
    (∃ t, exec (.seVxKk x kk) s = .next t ∧ SameButPc s t ∧
      t.pc = if (s.getV x).toNat = kk.toNat then s.pc + 4 else s.pc + 2) ∧
    (∃ t, exec (.sneVxKk x kk) s = .next t ∧ SameButPc s t ∧
      t.pc = if (s.getV x).toNat = kk.toNat then s.pc + 2 else s.pc + 4) ∧
    (∃ t, exec (.seVxVy x y) s = .next t ∧ SameButPc s t ∧
      t.pc = if (s.getV x).toNat = (s.getV y).toNat then s.pc + 4 else s.pc + 2) ∧
    (∃ t, exec (.sneVxVy x y) s = .next t ∧ SameButPc s t ∧
      t.pc = if (s.getV x).toNat = (s.getV y).toNat then s.pc + 2 else s.pc + 4)

/-! ### Loads, add, random, ALU -/

/-- R130, R131, R132: the immediate loads and the immediate add, which wraps and writes no flag. -/
def Obligations.ImmediateLoadsAndAdd : Prop :=
  ∀ (s : State) (x : Nibble) (kk : Byte) (nnn : Addr),
    (∃ t, exec (.ldVxKk x kk) s = .next t ∧ t.getV x = kk ∧ WritesRegister x s t) ∧
    (∃ t, exec (.addVxKk x kk) s = .next t ∧ (t.getV x).toNat = ((s.getV x).toNat + kk.toNat) % 256 ∧
      WritesRegister x s t) ∧
    (∃ t, exec (.ldINnn nnn) s = .next t ∧ t.i.toNat = nnn.toNat ∧ SameButIndexPc s t ∧ t.pc = s.pc + 2)

/-- R133: V[x] gets the random byte of the Tick, bitwise and with kk, for every value of the byte. -/
def Obligations.RandomByteIsMasked : Prop :=
  ∀ (s : State) (x : Nibble) (kk : Byte),
    ∃ t, exec (.rndVxKk x kk) s = .next t ∧
      (∀ j, (t.getV x).getLsbD j = (s.tickRnd.getLsbD j && kk.getLsbD j)) ∧ WritesRegister x s t

/-- R142 to R145: the copy and the bitwise operations, which change no register but V[x] (no flag). -/
def Obligations.CopyAndBitwiseOperations : Prop :=
  ∀ (s : State) (x y : Nibble),
    (∃ t, exec (.ldVxVy x y) s = .next t ∧ t.getV x = s.getV y ∧ WritesRegister x s t) ∧
    (∃ t, exec (.orVxVy x y) s = .next t ∧ WritesRegister x s t ∧
      ∀ j, (t.getV x).getLsbD j = ((s.getV x).getLsbD j || (s.getV y).getLsbD j)) ∧
    (∃ t, exec (.andVxVy x y) s = .next t ∧ WritesRegister x s t ∧
      ∀ j, (t.getV x).getLsbD j = ((s.getV x).getLsbD j && (s.getV y).getLsbD j)) ∧
    (∃ t, exec (.xorVxVy x y) s = .next t ∧ WritesRegister x s t ∧
      ∀ j, (t.getV x).getLsbD j = ((s.getV x).getLsbD j ^^ (s.getV y).getLsbD j))

/-- R146, R140, R141: the sum modulo 256; VF is 1 exactly when the sum exceeds 255, and with x = 15 the sum stays,
which is the spec's own choice (decision D3, log entry 8). -/
def Obligations.AddWritesCarry : Prop :=
  ∀ (s : State) (x y : Nibble), ∃ t, exec (.addVxVy x y) s = .next t ∧
    (t.getV x).toNat = ((s.getV x).toNat + (s.getV y).toNat) % 256 ∧
    WritesRegisterAndFlag x (if (s.getV x).toNat + (s.getV y).toNat > 255 then 1 else 0) s t

/-- R147, R149, R140, R141: the differences modulo 256; VF is 1 exactly when the minuend is strictly greater, and with
x = 15 the difference stays, which is the spec's own choice (decision D3, log entry 8). -/
def Obligations.SubtractsWriteNoBorrow : Prop :=
  ∀ (s : State) (x y : Nibble),
    (∃ t, exec (.subVxVy x y) s = .next t ∧
      ((t.getV x).toNat : Int) = (((s.getV x).toNat : Int) - ((s.getV y).toNat : Int)) % 256 ∧
      WritesRegisterAndFlag x (if (s.getV x).toNat > (s.getV y).toNat then 1 else 0) s t) ∧
    (∃ t, exec (.subnVxVy x y) s = .next t ∧
      ((t.getV x).toNat : Int) = (((s.getV y).toNat : Int) - ((s.getV x).toNat : Int)) % 256 ∧
      WritesRegisterAndFlag x (if (s.getV y).toNat > (s.getV x).toNat then 1 else 0) s t)

/-- R148, R150, R140, R141: the shifts by one of V[x] (y ignored); VF is the bit shifted out, and with x = 15 the
shifted value stays, which is the spec's own choice (decision D3, log entry 8). -/
def Obligations.ShiftsWriteTheBitShiftedOut : Prop :=
  ∀ (s : State) (x y : Nibble),
    (∃ t, exec (.shrVx x y) s = .next t ∧ (t.getV x).toNat = (s.getV x).toNat / 2 ∧
      WritesRegisterAndFlag x (if (s.getV x).toNat % 2 = 1 then 1 else 0) s t) ∧
    (∃ t, exec (.shlVx x y) s = .next t ∧ (t.getV x).toNat = (s.getV x).toNat * 2 % 256 ∧
      WritesRegisterAndFlag x (if (s.getV x).toNat ≥ 0x80 then 1 else 0) s t)

/-- R151, R199: the two classes of no-op words move pc on by 2 and change nothing else. -/
def Obligations.NoOpsOnlyAdvance : Prop :=
  ∀ (s : State) (x y n : Nibble) (kk : Byte),
    (∃ t, exec (.nop8 x y n) s = .next t ∧ t.pc = s.pc + 2 ∧ SameButPc s t) ∧
    (∃ t, exec (.nopF x kk) s = .next t ∧ t.pc = s.pc + 2 ∧ SameButPc s t)

/-! ### Display -/

/-- R160, R161: CLS turns all 2048 cells off, VF untouched; no other instruction turns a cell off but DRW, and that one
only by drawing over it. Which cells a sprite covers carries the clip at the right edge, the spec's own choice (decision
D4, log entry 9). -/
def Obligations.ClearTurnsEveryCellOff : Prop :=
  (∀ s : State, ∃ t, exec .cls s = .next t ∧ (∀ c r, t.fb.cell c r = false) ∧ t.pc = s.pc + 2 ∧ SameRegs s t ∧
    t.i = s.i ∧ SameTimers s t ∧ SameDeep s t) ∧
  (∀ (i : Instr) (s t : State) (c : Fin 64) (r : Fin 32), exec i s = .next t → s.fb.cell c r = true →
    t.fb.cell c r = false →
    i = .cls ∨ ∃ x y n, i = .drw x y n ∧
      spriteCovers s.mem s.i.toNat n.toNat (s.getV x).toNat (s.getV y).toNat c r = true)

/-- R162, R163, R164, R165, R166: the drawing loops, cell by cell: a cell is toggled exactly when the sprite covers it
(rows wrapping modulo 32, columns clipped at 63), VF is 1 exactly when a covered cell was on, the coordinates are those
before the write of VF; with a sprite byte above 4095 the block halts with MemoryOutOfBounds, `fault_info = i`. The clip,
the meaning of n = 0 and what the halt leaves are the spec's own choice (decisions D4, D20, D5 and D6, log entries 9, 18,
10 and 5). -/
def Obligations.DrawTogglesTheCoveredCells : Prop :=
  ∀ (s : State) (x y n : Nibble),
    (n = 0 ∨ s.i.toNat + n.toNat - 1 ≤ 4095 → ∃ t, exec (.drw x y n) s = .next t ∧
      (∀ c r, t.fb.cell c r = (s.fb.cell c r ^^
        spriteCovers s.mem s.i.toNat n.toNat (s.getV x).toNat (s.getV y).toNat c r)) ∧
      (t.getV 15 = 1 ∧ (∃ c r, s.fb.cell c r = true ∧
          spriteCovers s.mem s.i.toNat n.toNat (s.getV x).toNat (s.getV y).toNat c r = true) ∨
        t.getV 15 = 0 ∧ (∀ c r, s.fb.cell c r = true →
          spriteCovers s.mem s.i.toNat n.toNat (s.getV x).toNat (s.getV y).toNat c r = false)) ∧
      SameRegsBut 15 s t ∧ t.i = s.i ∧ SameTimers s t ∧ SameDeep s t ∧ t.pc = s.pc + 2) ∧
    (n ≠ 0 → s.i.toNat + n.toNat - 1 > 4095 → ∃ t, exec (.drw x y n) s = .next t ∧ Halts .memoryOutOfBounds s.i s t)

/-- R165: drawing the same sprite twice at the same place restores the frame buffer, and the second draw reports a
collision exactly when a covered cell was left on by the first. The place is the same where the first draw's write of
VF left V[x] and V[y] as they were, which is always so for x and y other than 15. Which cells are covered carries the
clip of decision D4 (log entry 9), and the meaning of n = 0 is decision D20 (log entry 18). -/
def Obligations.DrawingTwiceRestoresTheGrid : Prop :=
  ∀ (s t u : State) (x y n : Nibble), n = 0 ∨ s.i.toNat + n.toNat - 1 ≤ 4095 →
    exec (.drw x y n) s = .next t → t.getV x = s.getV x → t.getV y = s.getV y → exec (.drw x y n) t = .next u →
    (∀ c r, u.fb.cell c r = s.fb.cell c r) ∧
    (u.getV 15 = 1 ↔ ∃ c r, t.fb.cell c r = true ∧
      spriteCovers s.mem s.i.toNat n.toNat (s.getV x).toNat (s.getV y).toNat c r = true)

/-! ### Keypad -/

/-- R181, R182, R184: the key skips sample bit V[x] of `keys`; an index above 15 halts with KeyIndexOutOfRange,
`fault_info = V[x]`, nothing else changed, which is the spec's own choice (decisions D5, D6 and D8, log entries 5, 10
and 11). -/
def Obligations.KeySkipsSampleTheKey : Prop :=
  ∀ (s : State) (x : Nibble),
    ((s.getV x).toNat ≤ 15 →
      (∃ t, exec (.skpVx x) s = .next t ∧ SameButPc s t ∧
        t.pc = if s.tickKeys.getLsbD (s.getV x).toNat = true then s.pc + 4 else s.pc + 2) ∧
      (∃ t, exec (.sknpVx x) s = .next t ∧ SameButPc s t ∧
        t.pc = if s.tickKeys.getLsbD (s.getV x).toNat = true then s.pc + 2 else s.pc + 4)) ∧
    ((s.getV x).toNat > 15 → ∃ info, info.toNat = (s.getV x).toNat ∧
      (∃ t, exec (.skpVx x) s = .next t ∧ Halts .keyIndexOutOfRange info s t) ∧
      (∃ t, exec (.sknpVx x) s = .next t ∧ Halts .keyIndexOutOfRange info s t))

/-- R183 part 1: Fx0A suspends with `wait_x = x`, whatever `keys` holds, and changes nothing else, pc held (decision D7,
log entry 30). -/
def Obligations.KeyWaitSuspends : Prop :=
  ∀ (s : State) (x : Nibble), ∃ t, exec (.ldVxK x) s = .next t ∧ t.runState = .waitKey ∧ t.waitX = x ∧
    t.pc = s.pc ∧ SameRegs s t ∧ t.i = s.i ∧ SameMem s t ∧ SameStack s t ∧ SameTimers s t ∧ SameGrid s t ∧
    t.faultCode = s.faultCode ∧ t.faultInfo = s.faultInfo ∧ SameHost s t

/-! ### The Fxkk family -/

/-- R191, R192, R193: the three timer accesses, each writing only its own destination. -/
def Obligations.TimerAccesses : Prop :=
  ∀ (s : State) (x : Nibble),
    (∃ t, exec (.ldVxDt x) s = .next t ∧ t.getV x = s.delayTimer ∧ WritesRegister x s t) ∧
    (∃ t, exec (.ldDtVx x) s = .next t ∧ t.delayTimer = s.getV x ∧ t.soundTimer = s.soundTimer ∧ SameRegs s t ∧
      t.i = s.i ∧ SameGrid s t ∧ SameDeep s t ∧ t.pc = s.pc + 2) ∧
    (∃ t, exec (.ldStVx x) s = .next t ∧ t.soundTimer = s.getV x ∧ t.delayTimer = s.delayTimer ∧ SameRegs s t ∧
      t.i = s.i ∧ SameGrid s t ∧ SameDeep s t ∧ t.pc = s.pc + 2)

/-- R194, R195: `i + V[x]` modulo 65536 without a flag, and `V[x] * 5` of the whole byte (decisions D13 and D19, log
entries 15 and 18). -/
def Obligations.IndexArithmetic : Prop :=
  ∀ (s : State) (x : Nibble),
    (∃ t, exec (.addIVx x) s = .next t ∧ t.i.toNat = (s.i.toNat + (s.getV x).toNat) % 65536 ∧
      SameButIndexPc s t ∧ t.pc = s.pc + 2) ∧
    (∃ t, exec (.ldFVx x) s = .next t ∧ t.i.toNat = (s.getV x).toNat * 5 ∧ SameButIndexPc s t ∧ t.pc = s.pc + 2)

/-- R196: the three decimal digits at i, i+1, i+2 and no other byte; with i above 4093 the block halts with
MemoryOutOfBounds, nothing written. The bytes read back where memory is canonical (the model's form, log entry 19, kept
by `MemoryStaysCanonical`). That a store below 0x050 is performed is decision D10 (log entry 13), and what the halt
leaves rests on decisions D5 and D6 (log entries 10 and 5). -/
def Obligations.DigitsAreStored : Prop :=
  ∀ (s : State) (x : Nibble),
    (s.i.toNat + 2 ≤ 4095 → ∃ t, exec (.ldBVx x) s = .next t ∧ SameMemBut s.i.toNat 3 s t ∧
      (s.memOk → (Memory.byteAt t.mem s.i.toNat).toNat = (s.getV x).toNat / 100 ∧
        (Memory.byteAt t.mem (s.i.toNat + 1)).toNat = (s.getV x).toNat / 10 % 10 ∧
        (Memory.byteAt t.mem (s.i.toNat + 2)).toNat = (s.getV x).toNat % 10) ∧
      t.i = s.i ∧ SameButMemIndexPc s t ∧ t.pc = s.pc + 2) ∧
    (s.i.toNat + 2 > 4095 → ∃ t, exec (.ldBVx x) s = .next t ∧ Halts .memoryOutOfBounds s.i s t)

/-- R197: V[0] to V[x] stored from i on and no other byte, i moved by x + 1 modulo 65536; out of bounds the block halts
with MemoryOutOfBounds, nothing written. The bytes read back where memory is canonical (the model's form, log entry 19,
kept by `MemoryStaysCanonical`). That a store below 0x050 is performed is decision D10 (log entry 13), the width of i is
decision D13 (log entry 15), and what the halt leaves rests on decisions D5 and D6 (log entries 10 and 5). -/
def Obligations.RegistersAreDumped : Prop :=
  ∀ (s : State) (x : Nibble),
    (s.i.toNat + x.toNat ≤ 4095 → ∃ t, exec (.ldMemVx x) s = .next t ∧ SameMemBut s.i.toNat (x.toNat + 1) s t ∧
      (s.memOk → ∀ k : Nibble, k.toNat ≤ x.toNat → Memory.byteAt t.mem (s.i.toNat + k.toNat) = s.getV k) ∧
      t.i.toNat = (s.i.toNat + x.toNat + 1) % 65536 ∧ SameButMemIndexPc s t ∧ t.pc = s.pc + 2) ∧
    (s.i.toNat + x.toNat > 4095 → ∃ t, exec (.ldMemVx x) s = .next t ∧ Halts .memoryOutOfBounds s.i s t)

/-- R198: V[0] to V[x] loaded from i on and no other register, i moved by x + 1 modulo 65536, memory unchanged; out of
bounds the block halts with MemoryOutOfBounds. The width of i is decision D13 (log entry 15), and what the halt leaves,
the run state and the record changed with `fault_info = i` and nothing else, rests on decisions D5 and D6 (log entries 10
and 5). -/
def Obligations.RegistersAreLoaded : Prop :=
  ∀ (s : State) (x : Nibble),
    (s.i.toNat + x.toNat ≤ 4095 → ∃ t, exec (.ldVxMem x) s = .next t ∧
      (∀ k : Nibble, t.getV k =
        if k.toNat ≤ x.toNat then Memory.byteAt s.mem (s.i.toNat + k.toNat) else s.getV k) ∧
      t.i.toNat = (s.i.toNat + x.toNat + 1) % 65536 ∧ SameTimers s t ∧ SameGrid s t ∧ SameDeep s t ∧
      t.pc = s.pc + 2) ∧
    (s.i.toNat + x.toNat > 4095 → ∃ t, exec (.ldVxMem x) s = .next t ∧ Halts .memoryOutOfBounds s.i s t)

/-- R197, R198 (the round trip of S9): registers dumped and then loaded with the same x from the same i, in any state
with that memory, are bit for bit those of the dump, and i has advanced by x + 1 both times. That a dump below 0x050 is
performed is decision D10 (log entry 13); canonical memory is the model's form (log entry 19). -/
def Obligations.DumpThenLoadRestoresRegisters : Prop :=
  ∀ (s t u : State) (x : Nibble), s.memOk → s.i.toNat + x.toNat ≤ 4095 → exec (.ldMemVx x) s = .next t →
    SameMem t u → u.i = s.i →
    ∃ v, exec (.ldVxMem x) u = .next v ∧ (∀ k : Nibble, k.toNat ≤ x.toNat → v.getV k = s.getV k) ∧
      t.i.toNat = s.i.toNat + x.toNat + 1 ∧ v.i = t.i

/-- R62, R53: two neighbouring registers dumped by Fx55, and the first two digits stored by Fx33, are the very word
that a fetch at their address reads. That a store below 0x050 is performed is decision D10 (log entry 13), that an odd
address is fetched decision D11 (log entry 14); canonical memory is the model's form (log entry 19). -/
def Obligations.StoredWordsAreFetched : Prop :=
  ∀ (s t : State) (x : Nibble), s.memOk →
    (∀ k : Nibble, s.i.toNat + x.toNat ≤ 4095 → k.toNat < x.toNat → exec (.ldMemVx x) s = .next t →
      (t.setPc (s.i + k.setWidth 16)).fetchWord = some (wordOfBytes (s.getV k) (s.getV (k + 1)))) ∧
    (s.i.toNat + 2 ≤ 4095 → exec (.ldBVx x) s = .next t →
      ∃ w, (t.setPc s.i).fetchWord = some w ∧
        w.toNat = (s.getV x).toNat / 100 * 256 + (s.getV x).toNat / 10 % 10)

/-! ### Over all instructions -/

/-- R96, R210, R212: a fault raised by an instruction is the instruction's own one, with its `fault_info`, under its
own condition, with its number in `fault_code`, and changes nothing but the run state and the record (decisions D5, D6
and D8, log entries 5, 10 and 11). -/
def Obligations.FaultsArePreciseAndListed : Prop :=
  ∀ (i : Instr) (s t : State), s.safe → exec i s = .next t → t.runState = .halted →
    (Halts .stackOverflow s.pc s t ∧ t.faultCode.code = 2 ∧ s.level = 15 ∧ ∃ nnn, i = .call nnn) ∨
    (Halts .stackUnderflow s.pc s t ∧ t.faultCode.code = 3 ∧ s.level = -1 ∧ i = .ret) ∨
    (Halts .memoryOutOfBounds s.i s t ∧ t.faultCode.code = 4 ∧
      ((∃ x y n, i = .drw x y n ∧ n ≠ 0 ∧ s.i.toNat + n.toNat - 1 > 4095) ∨
       (∃ x, i = .ldBVx x ∧ s.i.toNat + 2 > 4095) ∨
       (∃ x, (i = .ldMemVx x ∨ i = .ldVxMem x) ∧ s.i.toNat + x.toNat > 4095))) ∨
    (∃ x, (i = .skpVx x ∨ i = .sknpVx x) ∧ (s.getV x).toNat > 15 ∧
      Halts .keyIndexOutOfRange ((s.getV x).setWidth 16) s t ∧ t.faultCode.code = 5)

/-- R21, R22: a V register changes only where the instruction names it as a destination, but for VF, which the six
flag writers set to 0 or 1. -/
def Obligations.RegistersChangeOnlyWhereNamed : Prop :=
  ∀ (i : Instr) (s t : State) (k : Nibble), exec i s = .next t → t.getV k ≠ s.getV k →
    i.writesReg k = true ∨ (k = 15 ∧ i.writesFlag = true ∧ (t.getV 15 = 0 ∨ t.getV 15 = 1))

/-- R23, R25, R26, R27, R30, R50, R200: memory, the call stack, the frame buffer, i, the timers and the wait register
change only by the instructions the spec names for them, and the host's side by none. -/
def Obligations.OtherStateChangesOnlyByItsInstructions : Prop :=
  ∀ (i : Instr) (s t : State), exec i s = .next t →
    (i.storesToMemory = false → SameMem s t) ∧
    (i ≠ .ret → (∀ nnn, i ≠ .call nnn) → SameStack s t) ∧
    (i ≠ .cls → (∀ x y n, i ≠ .drw x y n) → SameGrid s t) ∧
    (t.i ≠ s.i → (∃ nnn, i = .ldINnn nnn) ∨
      ∃ x, i = .addIVx x ∨ i = .ldFVx x ∨ i = .ldMemVx x ∨ i = .ldVxMem x) ∧
    (t.delayTimer ≠ s.delayTimer → ∃ x, i = .ldDtVx x) ∧
    (t.soundTimer ≠ s.soundTimer → ∃ x, i = .ldStVx x) ∧
    (t.waitX ≠ s.waitX → ∃ x, i = .ldVxK x) ∧
    SameHost s t

/-- R90: only Cxkk reads `rnd` and only Ex9E and ExA1 read `keys`: with other inputs every other instruction does the
same. -/
def Obligations.InputsAreReadOnlyByTheirInstructions : Prop :=
  ∀ (i : Instr) (s t : State) (keys : BitVec 16) (rnd : Byte), exec i s = .next t →
    ((∀ x, i ≠ .skpVx x ∧ i ≠ .sknpVx x) →
      exec i (s.sampleInputs keys s.tickRnd) = .next (t.sampleInputs keys s.tickRnd)) ∧
    ((∀ x kk, i ≠ .rndVxKk x kk) →
      exec i (s.sampleInputs s.tickKeys rnd) = .next (t.sampleInputs s.tickKeys rnd))

/-- R7, R133, R181, R182: at the level of a step, Ex9E and ExA1 test the keys, and Cxkk masks the random byte, that the
very Tick brings which fetches them. A key index above 15 is the concern of `KeySkipsSampleTheKey` (decision D8, log
entry 11). -/
def Obligations.TickBringsTheInputsItsInstructionReads : Prop :=
  ∀ (s : State) (keys : BitVec 16) (rnd : Byte), s.runState = .running → s.nextEvent = .tick keys rnd →
    (∀ x, s.fetches (.skpVx x) → (s.getV x).toNat ≤ 15 → ∃ t, step s = .next t ∧
      t.pc = if keys.getLsbD (s.getV x).toNat = true then s.pc + 4 else s.pc + 2) ∧
    (∀ x, s.fetches (.sknpVx x) → (s.getV x).toNat ≤ 15 → ∃ t, step s = .next t ∧
      t.pc = if keys.getLsbD (s.getV x).toNat = true then s.pc + 2 else s.pc + 4) ∧
    (∀ x kk, s.fetches (.rndVxKk x kk) → ∃ t, step s = .next t ∧ t.pc = s.pc + 2 ∧
      ∀ j, (t.getV x).getLsbD j = (rnd.getLsbD j && kk.getLsbD j))
end

