-- ==== Sys2Proof/Laws/Encoding.lean ====
section
/-! SUPPORT. The words of the encoding nibble by nibble: the fields of a word put together from its parts, and when a row
of the decoder table matches such a word. -/

namespace Sys2Proof.Laws

/-- The family nibble `op`, bits 15 to 12 of a word (R71). -/
def fieldOp (w : Word) : Nibble := w.extractLsb' 12 4

/-- A word of format A, bit by bit. -/
theorem getLsbD_wordA (op : Nibble) (nnn : Addr) (j : Nat) :
    (wordA op nnn).getLsbD j = if j < 12 then nnn.getLsbD j else op.getLsbD (j - 12) :=
  BitVec.getLsbD_append (x := op) (y := nnn) (i := j)

/-- A word of format I or K, bit by bit. -/
theorem getLsbD_wordI (op x : Nibble) (kk : Byte) (j : Nat) :
    (wordI op x kk).getLsbD j =
      if j < 8 then kk.getLsbD j else if j - 8 < 4 then x.getLsbD (j - 8) else op.getLsbD (j - 8 - 4) := by
  refine (BitVec.getLsbD_append (x := op ++ x) (y := kk) (i := j)).trans ?_
  rw [BitVec.getLsbD_append]

/-- A word of format R or D, bit by bit. -/
theorem getLsbD_wordR (op x y n : Nibble) (j : Nat) :
    (wordR op x y n).getLsbD j =
      if j < 4 then n.getLsbD j else if j - 4 < 4 then y.getLsbD (j - 4)
      else if j - 4 - 4 < 4 then x.getLsbD (j - 4 - 4) else op.getLsbD (j - 4 - 4 - 4) := by
  refine (BitVec.getLsbD_append (x := op ++ x ++ y) (y := n) (i := j)).trans ?_
  rw [BitVec.getLsbD_append, BitVec.getLsbD_append]

theorem fieldOp_wordA (op : Nibble) (nnn : Addr) : fieldOp (wordA op nnn) = op := by
  ext j hj
  simp only [fieldOp, BitVec.getElem_extractLsb', getLsbD_wordA]
  rw [if_neg (by omega), Nat.add_sub_cancel_left, BitVec.getLsbD_eq_getElem hj]

theorem fieldOp_wordI (op x : Nibble) (kk : Byte) : fieldOp (wordI op x kk) = op := by
  ext j hj
  simp only [fieldOp, BitVec.getElem_extractLsb', getLsbD_wordI]
  rw [if_neg (by omega), if_neg (by omega), show 12 + j - 8 - 4 = j by omega, BitVec.getLsbD_eq_getElem hj]

theorem fieldOp_wordR (op x y n : Nibble) : fieldOp (wordR op x y n) = op := by
  ext j hj
  simp only [fieldOp, BitVec.getElem_extractLsb', getLsbD_wordR]
  rw [if_neg (by omega), if_neg (by omega), if_neg (by omega), show 12 + j - 4 - 4 - 4 = j by omega,
    BitVec.getLsbD_eq_getElem hj]

theorem fieldX_wordR (op x y n : Nibble) : fieldX (wordR op x y n) = x := by
  ext j hj
  simp only [fieldX, BitVec.getElem_extractLsb', getLsbD_wordR]
  rw [if_neg (by omega), if_neg (by omega), if_pos (by omega), show 8 + j - 4 - 4 = j by omega,
    BitVec.getLsbD_eq_getElem hj]

theorem fieldY_wordR (op x y n : Nibble) : fieldY (wordR op x y n) = y := by
  ext j hj
  simp only [fieldY, BitVec.getElem_extractLsb', getLsbD_wordR]
  rw [if_neg (by omega), if_pos (by omega), show 4 + j - 4 = j by omega, BitVec.getLsbD_eq_getElem hj]

theorem fieldN_wordR (op x y n : Nibble) : fieldN (wordR op x y n) = n := by
  ext j hj
  simp only [fieldN, BitVec.getElem_extractLsb', getLsbD_wordR]
  rw [if_pos (by omega), show 0 + j = j by omega, BitVec.getLsbD_eq_getElem hj]

/-- Two words are equal when their four nibbles are. -/
theorem wordR_inj (op x y n op' x' y' n' : Nibble) :
    wordR op x y n = wordR op' x' y' n' ↔ op = op' ∧ x = x' ∧ y = y' ∧ n = n' := by
  constructor
  · intro h
    exact ⟨by rw [← fieldOp_wordR op x y n, h, fieldOp_wordR], by rw [← fieldX_wordR op x y n, h, fieldX_wordR],
      by rw [← fieldY_wordR op x y n, h, fieldY_wordR], by rw [← fieldN_wordR op x y n, h, fieldN_wordR]⟩
  · rintro ⟨rfl, rfl, rfl, rfl⟩; rfl

/-- Every word is its four nibbles. -/
theorem word_eq_wordR (w : Word) : w = wordR (fieldOp w) (fieldX w) (fieldY w) (fieldN w) := by
  ext j hj
  rw [← BitVec.getLsbD_eq_getElem, ← BitVec.getLsbD_eq_getElem, getLsbD_wordR]
  simp only [fieldOp, fieldX, fieldY, fieldN, BitVec.getLsbD_extractLsb']
  interval_cases j <;> simp

/-- The decoder's AND, nibble by nibble. -/
theorem wordR_and (op x y n op' x' y' n' : Nibble) :
    wordR op x y n &&& wordR op' x' y' n' = wordR (op &&& op') (x &&& x') (y &&& y') (n &&& n') := by
  ext j hj
  simp only [← BitVec.getLsbD_eq_getElem, BitVec.getLsbD_and, getLsbD_wordR]
  repeat' split
  all_goals rfl

/-- A row matches a word when it does so in each of the four nibbles. -/
theorem rowMatches_wordR (r : DecodeRow) (op x y n : Nibble) :
    rowMatches r (wordR op x y n) =
      ((op &&& fieldOp r.mask) == fieldOp r.pattern && ((x &&& fieldX r.mask) == fieldX r.pattern &&
        ((y &&& fieldY r.mask) == fieldY r.pattern && (n &&& fieldN r.mask) == fieldN r.pattern))) := by
  rw [rowMatches, word_eq_wordR r.mask, wordR_and, Bool.eq_iff_iff, word_eq_wordR r.pattern]
  simp [wordR_inj, fieldOp_wordR, fieldX_wordR, fieldY_wordR, fieldN_wordR]

/-- A word of format I or K, with its low byte as two nibbles. -/
theorem wordI_eq_wordR (op x : Nibble) (kk : Byte) :
    wordI op x kk = wordR op x (kk.extractLsb' 4 4) (kk.extractLsb' 0 4) := by
  ext j hj
  simp only [← BitVec.getLsbD_eq_getElem, getLsbD_wordR, getLsbD_wordI, BitVec.getLsbD_extractLsb']
  interval_cases j <;> simp

/-- A word of format A, with its address as three nibbles. -/
theorem wordA_eq_wordR (op : Nibble) (nnn : Addr) :
    wordA op nnn = wordR op (nnn.extractLsb' 8 4) (nnn.extractLsb' 4 4) (nnn.extractLsb' 0 4) := by
  ext j hj
  simp only [← BitVec.getLsbD_eq_getElem, getLsbD_wordR, getLsbD_wordA, BitVec.getLsbD_extractLsb']
  interval_cases j <;> simp

end Sys2Proof.Laws
end

