-- ==== Sys2Proof/Laws/State.lean ====
section
/-! SUPPORT. What each named update of the state does to each field: one lemma per field per update, so that no proof
unfolds a record update. `advance`, `skipIf` and `timerCountdown` are first rewritten into them. -/

namespace Sys2Proof.Machine

@[simp] theorem advance_eq (s : State) : s.advance = s.setPc (s.pc + 2) := rfl
@[simp] theorem skipIf_eq (s : State) (c : Bool) : s.skipIf c = s.setPc (if c then s.pc + 4 else s.pc + 2) := rfl
@[simp] theorem timerCountdown_eq (s : State) :
    s.timerCountdown = (s.setDelay (countdown s.delayTimer)).setSound (countdown s.soundTimer) := rfl

/-! ### setV -/

@[simp] theorem setV_mem (s : State) (x : Nibble) (b : Byte) : (s.setV x b).mem = s.mem := rfl
@[simp] theorem setV_i (s : State) (x : Nibble) (b : Byte) : (s.setV x b).i = s.i := rfl
@[simp] theorem setV_pc (s : State) (x : Nibble) (b : Byte) : (s.setV x b).pc = s.pc := rfl
@[simp] theorem setV_stack (s : State) (x : Nibble) (b : Byte) : (s.setV x b).stack = s.stack := rfl
@[simp] theorem setV_stackLevel (s : State) (x : Nibble) (b : Byte) : (s.setV x b).stackLevel = s.stackLevel := rfl
@[simp] theorem setV_delayTimer (s : State) (x : Nibble) (b : Byte) : (s.setV x b).delayTimer = s.delayTimer := rfl
@[simp] theorem setV_soundTimer (s : State) (x : Nibble) (b : Byte) : (s.setV x b).soundTimer = s.soundTimer := rfl
@[simp] theorem setV_fb (s : State) (x : Nibble) (b : Byte) : (s.setV x b).fb = s.fb := rfl
@[simp] theorem setV_runState (s : State) (x : Nibble) (b : Byte) : (s.setV x b).runState = s.runState := rfl
@[simp] theorem setV_waitX (s : State) (x : Nibble) (b : Byte) : (s.setV x b).waitX = s.waitX := rfl
@[simp] theorem setV_faultCode (s : State) (x : Nibble) (b : Byte) : (s.setV x b).faultCode = s.faultCode := rfl
@[simp] theorem setV_faultInfo (s : State) (x : Nibble) (b : Byte) : (s.setV x b).faultInfo = s.faultInfo := rfl
@[simp] theorem setV_tickKeys (s : State) (x : Nibble) (b : Byte) : (s.setV x b).tickKeys = s.tickKeys := rfl
@[simp] theorem setV_tickRnd (s : State) (x : Nibble) (b : Byte) : (s.setV x b).tickRnd = s.tickRnd := rfl
@[simp] theorem setV_events (s : State) (x : Nibble) (b : Byte) : (s.setV x b).events = s.events := rfl
@[simp] theorem setV_eventIndex (s : State) (x : Nibble) (b : Byte) : (s.setV x b).eventIndex = s.eventIndex := rfl

/-! ### setI -/

@[simp] theorem setI_mem (s : State) (a : Word) : (s.setI a).mem = s.mem := rfl
@[simp] theorem setI_v (s : State) (a : Word) : (s.setI a).v = s.v := rfl
@[simp] theorem setI_i (s : State) (a : Word) : (s.setI a).i = a := rfl
@[simp] theorem setI_pc (s : State) (a : Word) : (s.setI a).pc = s.pc := rfl
@[simp] theorem setI_stack (s : State) (a : Word) : (s.setI a).stack = s.stack := rfl
@[simp] theorem setI_stackLevel (s : State) (a : Word) : (s.setI a).stackLevel = s.stackLevel := rfl
@[simp] theorem setI_delayTimer (s : State) (a : Word) : (s.setI a).delayTimer = s.delayTimer := rfl
@[simp] theorem setI_soundTimer (s : State) (a : Word) : (s.setI a).soundTimer = s.soundTimer := rfl
@[simp] theorem setI_fb (s : State) (a : Word) : (s.setI a).fb = s.fb := rfl
@[simp] theorem setI_runState (s : State) (a : Word) : (s.setI a).runState = s.runState := rfl
@[simp] theorem setI_waitX (s : State) (a : Word) : (s.setI a).waitX = s.waitX := rfl
@[simp] theorem setI_faultCode (s : State) (a : Word) : (s.setI a).faultCode = s.faultCode := rfl
@[simp] theorem setI_faultInfo (s : State) (a : Word) : (s.setI a).faultInfo = s.faultInfo := rfl
@[simp] theorem setI_tickKeys (s : State) (a : Word) : (s.setI a).tickKeys = s.tickKeys := rfl
@[simp] theorem setI_tickRnd (s : State) (a : Word) : (s.setI a).tickRnd = s.tickRnd := rfl
@[simp] theorem setI_events (s : State) (a : Word) : (s.setI a).events = s.events := rfl
@[simp] theorem setI_eventIndex (s : State) (a : Word) : (s.setI a).eventIndex = s.eventIndex := rfl
@[simp] theorem setI_getV (s : State) (a : Word) (j : Nibble) : (s.setI a).getV j = s.getV j := rfl

/-! ### setDelay -/

@[simp] theorem setDelay_mem (s : State) (b : Byte) : (s.setDelay b).mem = s.mem := rfl
@[simp] theorem setDelay_v (s : State) (b : Byte) : (s.setDelay b).v = s.v := rfl
@[simp] theorem setDelay_i (s : State) (b : Byte) : (s.setDelay b).i = s.i := rfl
@[simp] theorem setDelay_pc (s : State) (b : Byte) : (s.setDelay b).pc = s.pc := rfl
@[simp] theorem setDelay_stack (s : State) (b : Byte) : (s.setDelay b).stack = s.stack := rfl
@[simp] theorem setDelay_stackLevel (s : State) (b : Byte) : (s.setDelay b).stackLevel = s.stackLevel := rfl
@[simp] theorem setDelay_delayTimer (s : State) (b : Byte) : (s.setDelay b).delayTimer = b := rfl
@[simp] theorem setDelay_soundTimer (s : State) (b : Byte) : (s.setDelay b).soundTimer = s.soundTimer := rfl
@[simp] theorem setDelay_fb (s : State) (b : Byte) : (s.setDelay b).fb = s.fb := rfl
@[simp] theorem setDelay_runState (s : State) (b : Byte) : (s.setDelay b).runState = s.runState := rfl
@[simp] theorem setDelay_waitX (s : State) (b : Byte) : (s.setDelay b).waitX = s.waitX := rfl
@[simp] theorem setDelay_faultCode (s : State) (b : Byte) : (s.setDelay b).faultCode = s.faultCode := rfl
@[simp] theorem setDelay_faultInfo (s : State) (b : Byte) : (s.setDelay b).faultInfo = s.faultInfo := rfl
@[simp] theorem setDelay_tickKeys (s : State) (b : Byte) : (s.setDelay b).tickKeys = s.tickKeys := rfl
@[simp] theorem setDelay_tickRnd (s : State) (b : Byte) : (s.setDelay b).tickRnd = s.tickRnd := rfl
@[simp] theorem setDelay_events (s : State) (b : Byte) : (s.setDelay b).events = s.events := rfl
@[simp] theorem setDelay_eventIndex (s : State) (b : Byte) : (s.setDelay b).eventIndex = s.eventIndex := rfl
@[simp] theorem setDelay_getV (s : State) (b : Byte) (j : Nibble) : (s.setDelay b).getV j = s.getV j := rfl

/-! ### setSound -/

@[simp] theorem setSound_mem (s : State) (b : Byte) : (s.setSound b).mem = s.mem := rfl
@[simp] theorem setSound_v (s : State) (b : Byte) : (s.setSound b).v = s.v := rfl
@[simp] theorem setSound_i (s : State) (b : Byte) : (s.setSound b).i = s.i := rfl
@[simp] theorem setSound_pc (s : State) (b : Byte) : (s.setSound b).pc = s.pc := rfl
@[simp] theorem setSound_stack (s : State) (b : Byte) : (s.setSound b).stack = s.stack := rfl
@[simp] theorem setSound_stackLevel (s : State) (b : Byte) : (s.setSound b).stackLevel = s.stackLevel := rfl
@[simp] theorem setSound_delayTimer (s : State) (b : Byte) : (s.setSound b).delayTimer = s.delayTimer := rfl
@[simp] theorem setSound_soundTimer (s : State) (b : Byte) : (s.setSound b).soundTimer = b := rfl
@[simp] theorem setSound_fb (s : State) (b : Byte) : (s.setSound b).fb = s.fb := rfl
@[simp] theorem setSound_runState (s : State) (b : Byte) : (s.setSound b).runState = s.runState := rfl
@[simp] theorem setSound_waitX (s : State) (b : Byte) : (s.setSound b).waitX = s.waitX := rfl
@[simp] theorem setSound_faultCode (s : State) (b : Byte) : (s.setSound b).faultCode = s.faultCode := rfl
@[simp] theorem setSound_faultInfo (s : State) (b : Byte) : (s.setSound b).faultInfo = s.faultInfo := rfl
@[simp] theorem setSound_tickKeys (s : State) (b : Byte) : (s.setSound b).tickKeys = s.tickKeys := rfl
@[simp] theorem setSound_tickRnd (s : State) (b : Byte) : (s.setSound b).tickRnd = s.tickRnd := rfl
@[simp] theorem setSound_events (s : State) (b : Byte) : (s.setSound b).events = s.events := rfl
@[simp] theorem setSound_eventIndex (s : State) (b : Byte) : (s.setSound b).eventIndex = s.eventIndex := rfl
@[simp] theorem setSound_getV (s : State) (b : Byte) (j : Nibble) : (s.setSound b).getV j = s.getV j := rfl

/-! ### setMem -/

@[simp] theorem setMem_mem (s : State) (m : Memory) : (s.setMem m).mem = m := rfl
@[simp] theorem setMem_v (s : State) (m : Memory) : (s.setMem m).v = s.v := rfl
@[simp] theorem setMem_i (s : State) (m : Memory) : (s.setMem m).i = s.i := rfl
@[simp] theorem setMem_pc (s : State) (m : Memory) : (s.setMem m).pc = s.pc := rfl
@[simp] theorem setMem_stack (s : State) (m : Memory) : (s.setMem m).stack = s.stack := rfl
@[simp] theorem setMem_stackLevel (s : State) (m : Memory) : (s.setMem m).stackLevel = s.stackLevel := rfl
@[simp] theorem setMem_delayTimer (s : State) (m : Memory) : (s.setMem m).delayTimer = s.delayTimer := rfl
@[simp] theorem setMem_soundTimer (s : State) (m : Memory) : (s.setMem m).soundTimer = s.soundTimer := rfl
@[simp] theorem setMem_fb (s : State) (m : Memory) : (s.setMem m).fb = s.fb := rfl
@[simp] theorem setMem_runState (s : State) (m : Memory) : (s.setMem m).runState = s.runState := rfl
@[simp] theorem setMem_waitX (s : State) (m : Memory) : (s.setMem m).waitX = s.waitX := rfl
@[simp] theorem setMem_faultCode (s : State) (m : Memory) : (s.setMem m).faultCode = s.faultCode := rfl
@[simp] theorem setMem_faultInfo (s : State) (m : Memory) : (s.setMem m).faultInfo = s.faultInfo := rfl
@[simp] theorem setMem_tickKeys (s : State) (m : Memory) : (s.setMem m).tickKeys = s.tickKeys := rfl
@[simp] theorem setMem_tickRnd (s : State) (m : Memory) : (s.setMem m).tickRnd = s.tickRnd := rfl
@[simp] theorem setMem_events (s : State) (m : Memory) : (s.setMem m).events = s.events := rfl
@[simp] theorem setMem_eventIndex (s : State) (m : Memory) : (s.setMem m).eventIndex = s.eventIndex := rfl
@[simp] theorem setMem_getV (s : State) (m : Memory) (j : Nibble) : (s.setMem m).getV j = s.getV j := rfl

/-! ### setFb -/

@[simp] theorem setFb_mem (s : State) (f : FrameBuffer) : (s.setFb f).mem = s.mem := rfl
@[simp] theorem setFb_v (s : State) (f : FrameBuffer) : (s.setFb f).v = s.v := rfl
@[simp] theorem setFb_i (s : State) (f : FrameBuffer) : (s.setFb f).i = s.i := rfl
@[simp] theorem setFb_pc (s : State) (f : FrameBuffer) : (s.setFb f).pc = s.pc := rfl
@[simp] theorem setFb_stack (s : State) (f : FrameBuffer) : (s.setFb f).stack = s.stack := rfl
@[simp] theorem setFb_stackLevel (s : State) (f : FrameBuffer) : (s.setFb f).stackLevel = s.stackLevel := rfl
@[simp] theorem setFb_delayTimer (s : State) (f : FrameBuffer) : (s.setFb f).delayTimer = s.delayTimer := rfl
@[simp] theorem setFb_soundTimer (s : State) (f : FrameBuffer) : (s.setFb f).soundTimer = s.soundTimer := rfl
@[simp] theorem setFb_fb (s : State) (f : FrameBuffer) : (s.setFb f).fb = f := rfl
@[simp] theorem setFb_runState (s : State) (f : FrameBuffer) : (s.setFb f).runState = s.runState := rfl
@[simp] theorem setFb_waitX (s : State) (f : FrameBuffer) : (s.setFb f).waitX = s.waitX := rfl
@[simp] theorem setFb_faultCode (s : State) (f : FrameBuffer) : (s.setFb f).faultCode = s.faultCode := rfl
@[simp] theorem setFb_faultInfo (s : State) (f : FrameBuffer) : (s.setFb f).faultInfo = s.faultInfo := rfl
@[simp] theorem setFb_tickKeys (s : State) (f : FrameBuffer) : (s.setFb f).tickKeys = s.tickKeys := rfl
@[simp] theorem setFb_tickRnd (s : State) (f : FrameBuffer) : (s.setFb f).tickRnd = s.tickRnd := rfl
@[simp] theorem setFb_events (s : State) (f : FrameBuffer) : (s.setFb f).events = s.events := rfl
@[simp] theorem setFb_eventIndex (s : State) (f : FrameBuffer) : (s.setFb f).eventIndex = s.eventIndex := rfl
@[simp] theorem setFb_getV (s : State) (f : FrameBuffer) (j : Nibble) : (s.setFb f).getV j = s.getV j := rfl

/-! ### setPc -/

@[simp] theorem setPc_mem (s : State) (a : Word) : (s.setPc a).mem = s.mem := rfl
@[simp] theorem setPc_v (s : State) (a : Word) : (s.setPc a).v = s.v := rfl
@[simp] theorem setPc_i (s : State) (a : Word) : (s.setPc a).i = s.i := rfl
@[simp] theorem setPc_pc (s : State) (a : Word) : (s.setPc a).pc = a := rfl
@[simp] theorem setPc_stack (s : State) (a : Word) : (s.setPc a).stack = s.stack := rfl
@[simp] theorem setPc_stackLevel (s : State) (a : Word) : (s.setPc a).stackLevel = s.stackLevel := rfl
@[simp] theorem setPc_delayTimer (s : State) (a : Word) : (s.setPc a).delayTimer = s.delayTimer := rfl
@[simp] theorem setPc_soundTimer (s : State) (a : Word) : (s.setPc a).soundTimer = s.soundTimer := rfl
@[simp] theorem setPc_fb (s : State) (a : Word) : (s.setPc a).fb = s.fb := rfl
@[simp] theorem setPc_runState (s : State) (a : Word) : (s.setPc a).runState = s.runState := rfl
@[simp] theorem setPc_waitX (s : State) (a : Word) : (s.setPc a).waitX = s.waitX := rfl
@[simp] theorem setPc_faultCode (s : State) (a : Word) : (s.setPc a).faultCode = s.faultCode := rfl
@[simp] theorem setPc_faultInfo (s : State) (a : Word) : (s.setPc a).faultInfo = s.faultInfo := rfl
@[simp] theorem setPc_tickKeys (s : State) (a : Word) : (s.setPc a).tickKeys = s.tickKeys := rfl
@[simp] theorem setPc_tickRnd (s : State) (a : Word) : (s.setPc a).tickRnd = s.tickRnd := rfl
@[simp] theorem setPc_events (s : State) (a : Word) : (s.setPc a).events = s.events := rfl
@[simp] theorem setPc_eventIndex (s : State) (a : Word) : (s.setPc a).eventIndex = s.eventIndex := rfl
@[simp] theorem setPc_getV (s : State) (a : Word) (j : Nibble) : (s.setPc a).getV j = s.getV j := rfl

/-! ### pushAt -/

@[simp] theorem pushAt_mem (s : State) (k : Fin 16) (a : Word) : (s.pushAt k a).mem = s.mem := rfl
@[simp] theorem pushAt_v (s : State) (k : Fin 16) (a : Word) : (s.pushAt k a).v = s.v := rfl
@[simp] theorem pushAt_i (s : State) (k : Fin 16) (a : Word) : (s.pushAt k a).i = s.i := rfl
@[simp] theorem pushAt_pc (s : State) (k : Fin 16) (a : Word) : (s.pushAt k a).pc = s.pc := rfl
@[simp] theorem pushAt_stack (s : State) (k : Fin 16) (a : Word) : (s.pushAt k a).stack = s.stack.set k.val a k.isLt := rfl
@[simp] theorem pushAt_stackLevel (s : State) (k : Fin 16) (a : Word) : (s.pushAt k a).stackLevel = some k := rfl
@[simp] theorem pushAt_delayTimer (s : State) (k : Fin 16) (a : Word) : (s.pushAt k a).delayTimer = s.delayTimer := rfl
@[simp] theorem pushAt_soundTimer (s : State) (k : Fin 16) (a : Word) : (s.pushAt k a).soundTimer = s.soundTimer := rfl
@[simp] theorem pushAt_fb (s : State) (k : Fin 16) (a : Word) : (s.pushAt k a).fb = s.fb := rfl
@[simp] theorem pushAt_runState (s : State) (k : Fin 16) (a : Word) : (s.pushAt k a).runState = s.runState := rfl
@[simp] theorem pushAt_waitX (s : State) (k : Fin 16) (a : Word) : (s.pushAt k a).waitX = s.waitX := rfl
@[simp] theorem pushAt_faultCode (s : State) (k : Fin 16) (a : Word) : (s.pushAt k a).faultCode = s.faultCode := rfl
@[simp] theorem pushAt_faultInfo (s : State) (k : Fin 16) (a : Word) : (s.pushAt k a).faultInfo = s.faultInfo := rfl
@[simp] theorem pushAt_tickKeys (s : State) (k : Fin 16) (a : Word) : (s.pushAt k a).tickKeys = s.tickKeys := rfl
@[simp] theorem pushAt_tickRnd (s : State) (k : Fin 16) (a : Word) : (s.pushAt k a).tickRnd = s.tickRnd := rfl
@[simp] theorem pushAt_events (s : State) (k : Fin 16) (a : Word) : (s.pushAt k a).events = s.events := rfl
@[simp] theorem pushAt_eventIndex (s : State) (k : Fin 16) (a : Word) : (s.pushAt k a).eventIndex = s.eventIndex := rfl
@[simp] theorem pushAt_getV (s : State) (k : Fin 16) (a : Word) (j : Nibble) : (s.pushAt k a).getV j = s.getV j := rfl

/-! ### popFrom -/

@[simp] theorem popFrom_mem (s : State) (k : Fin 16) : (s.popFrom k).mem = s.mem := rfl
@[simp] theorem popFrom_v (s : State) (k : Fin 16) : (s.popFrom k).v = s.v := rfl
@[simp] theorem popFrom_i (s : State) (k : Fin 16) : (s.popFrom k).i = s.i := rfl
@[simp] theorem popFrom_pc (s : State) (k : Fin 16) : (s.popFrom k).pc = s.pc := rfl
@[simp] theorem popFrom_stack (s : State) (k : Fin 16) : (s.popFrom k).stack = s.stack := rfl
@[simp] theorem popFrom_stackLevel (s : State) (k : Fin 16) : (s.popFrom k).stackLevel = lowerLevel k := rfl
@[simp] theorem popFrom_delayTimer (s : State) (k : Fin 16) : (s.popFrom k).delayTimer = s.delayTimer := rfl
@[simp] theorem popFrom_soundTimer (s : State) (k : Fin 16) : (s.popFrom k).soundTimer = s.soundTimer := rfl
@[simp] theorem popFrom_fb (s : State) (k : Fin 16) : (s.popFrom k).fb = s.fb := rfl
@[simp] theorem popFrom_runState (s : State) (k : Fin 16) : (s.popFrom k).runState = s.runState := rfl
@[simp] theorem popFrom_waitX (s : State) (k : Fin 16) : (s.popFrom k).waitX = s.waitX := rfl
@[simp] theorem popFrom_faultCode (s : State) (k : Fin 16) : (s.popFrom k).faultCode = s.faultCode := rfl
@[simp] theorem popFrom_faultInfo (s : State) (k : Fin 16) : (s.popFrom k).faultInfo = s.faultInfo := rfl
@[simp] theorem popFrom_tickKeys (s : State) (k : Fin 16) : (s.popFrom k).tickKeys = s.tickKeys := rfl
@[simp] theorem popFrom_tickRnd (s : State) (k : Fin 16) : (s.popFrom k).tickRnd = s.tickRnd := rfl
@[simp] theorem popFrom_events (s : State) (k : Fin 16) : (s.popFrom k).events = s.events := rfl
@[simp] theorem popFrom_eventIndex (s : State) (k : Fin 16) : (s.popFrom k).eventIndex = s.eventIndex := rfl
@[simp] theorem popFrom_getV (s : State) (k : Fin 16) (j : Nibble) : (s.popFrom k).getV j = s.getV j := rfl

/-! ### halt -/

@[simp] theorem halt_mem (s : State) (f : FaultCode) (w : Word) : (s.halt f w).mem = s.mem := rfl
@[simp] theorem halt_v (s : State) (f : FaultCode) (w : Word) : (s.halt f w).v = s.v := rfl
@[simp] theorem halt_i (s : State) (f : FaultCode) (w : Word) : (s.halt f w).i = s.i := rfl
@[simp] theorem halt_pc (s : State) (f : FaultCode) (w : Word) : (s.halt f w).pc = s.pc := rfl
@[simp] theorem halt_stack (s : State) (f : FaultCode) (w : Word) : (s.halt f w).stack = s.stack := rfl
@[simp] theorem halt_stackLevel (s : State) (f : FaultCode) (w : Word) : (s.halt f w).stackLevel = s.stackLevel := rfl
@[simp] theorem halt_delayTimer (s : State) (f : FaultCode) (w : Word) : (s.halt f w).delayTimer = s.delayTimer := rfl
@[simp] theorem halt_soundTimer (s : State) (f : FaultCode) (w : Word) : (s.halt f w).soundTimer = s.soundTimer := rfl
@[simp] theorem halt_fb (s : State) (f : FaultCode) (w : Word) : (s.halt f w).fb = s.fb := rfl
@[simp] theorem halt_runState (s : State) (f : FaultCode) (w : Word) : (s.halt f w).runState = .halted := rfl
@[simp] theorem halt_waitX (s : State) (f : FaultCode) (w : Word) : (s.halt f w).waitX = s.waitX := rfl
@[simp] theorem halt_faultCode (s : State) (f : FaultCode) (w : Word) : (s.halt f w).faultCode = f := rfl
@[simp] theorem halt_faultInfo (s : State) (f : FaultCode) (w : Word) : (s.halt f w).faultInfo = w := rfl
@[simp] theorem halt_tickKeys (s : State) (f : FaultCode) (w : Word) : (s.halt f w).tickKeys = s.tickKeys := rfl
@[simp] theorem halt_tickRnd (s : State) (f : FaultCode) (w : Word) : (s.halt f w).tickRnd = s.tickRnd := rfl
@[simp] theorem halt_events (s : State) (f : FaultCode) (w : Word) : (s.halt f w).events = s.events := rfl
@[simp] theorem halt_eventIndex (s : State) (f : FaultCode) (w : Word) : (s.halt f w).eventIndex = s.eventIndex := rfl
@[simp] theorem halt_getV (s : State) (f : FaultCode) (w : Word) (j : Nibble) : (s.halt f w).getV j = s.getV j := rfl

/-! ### suspend -/

@[simp] theorem suspend_mem (s : State) (x : Nibble) : (s.suspend x).mem = s.mem := rfl
@[simp] theorem suspend_v (s : State) (x : Nibble) : (s.suspend x).v = s.v := rfl
@[simp] theorem suspend_i (s : State) (x : Nibble) : (s.suspend x).i = s.i := rfl
@[simp] theorem suspend_pc (s : State) (x : Nibble) : (s.suspend x).pc = s.pc := rfl
@[simp] theorem suspend_stack (s : State) (x : Nibble) : (s.suspend x).stack = s.stack := rfl
@[simp] theorem suspend_stackLevel (s : State) (x : Nibble) : (s.suspend x).stackLevel = s.stackLevel := rfl
@[simp] theorem suspend_delayTimer (s : State) (x : Nibble) : (s.suspend x).delayTimer = s.delayTimer := rfl
@[simp] theorem suspend_soundTimer (s : State) (x : Nibble) : (s.suspend x).soundTimer = s.soundTimer := rfl
@[simp] theorem suspend_fb (s : State) (x : Nibble) : (s.suspend x).fb = s.fb := rfl
@[simp] theorem suspend_runState (s : State) (x : Nibble) : (s.suspend x).runState = .waitKey := rfl
@[simp] theorem suspend_waitX (s : State) (x : Nibble) : (s.suspend x).waitX = x := rfl
@[simp] theorem suspend_faultCode (s : State) (x : Nibble) : (s.suspend x).faultCode = s.faultCode := rfl
@[simp] theorem suspend_faultInfo (s : State) (x : Nibble) : (s.suspend x).faultInfo = s.faultInfo := rfl
@[simp] theorem suspend_tickKeys (s : State) (x : Nibble) : (s.suspend x).tickKeys = s.tickKeys := rfl
@[simp] theorem suspend_tickRnd (s : State) (x : Nibble) : (s.suspend x).tickRnd = s.tickRnd := rfl
@[simp] theorem suspend_events (s : State) (x : Nibble) : (s.suspend x).events = s.events := rfl
@[simp] theorem suspend_eventIndex (s : State) (x : Nibble) : (s.suspend x).eventIndex = s.eventIndex := rfl
@[simp] theorem suspend_getV (s : State) (x : Nibble) (j : Nibble) : (s.suspend x).getV j = s.getV j := rfl

/-! ### resume -/

@[simp] theorem resume_mem (s : State) : s.resume.mem = s.mem := rfl
@[simp] theorem resume_v (s : State) : s.resume.v = s.v := rfl
@[simp] theorem resume_i (s : State) : s.resume.i = s.i := rfl
@[simp] theorem resume_pc (s : State) : s.resume.pc = s.pc := rfl
@[simp] theorem resume_stack (s : State) : s.resume.stack = s.stack := rfl
@[simp] theorem resume_stackLevel (s : State) : s.resume.stackLevel = s.stackLevel := rfl
@[simp] theorem resume_delayTimer (s : State) : s.resume.delayTimer = s.delayTimer := rfl
@[simp] theorem resume_soundTimer (s : State) : s.resume.soundTimer = s.soundTimer := rfl
@[simp] theorem resume_fb (s : State) : s.resume.fb = s.fb := rfl
@[simp] theorem resume_runState (s : State) : s.resume.runState = .running := rfl
@[simp] theorem resume_waitX (s : State) : s.resume.waitX = 0 := rfl
@[simp] theorem resume_faultCode (s : State) : s.resume.faultCode = s.faultCode := rfl
@[simp] theorem resume_faultInfo (s : State) : s.resume.faultInfo = s.faultInfo := rfl
@[simp] theorem resume_tickKeys (s : State) : s.resume.tickKeys = s.tickKeys := rfl
@[simp] theorem resume_tickRnd (s : State) : s.resume.tickRnd = s.tickRnd := rfl
@[simp] theorem resume_events (s : State) : s.resume.events = s.events := rfl
@[simp] theorem resume_eventIndex (s : State) : s.resume.eventIndex = s.eventIndex := rfl
@[simp] theorem resume_getV (s : State) (j : Nibble) : s.resume.getV j = s.getV j := rfl

/-! ### sampleInputs -/

@[simp] theorem sampleInputs_mem (s : State) (k : BitVec 16) (r : Byte) : (s.sampleInputs k r).mem = s.mem := rfl
@[simp] theorem sampleInputs_v (s : State) (k : BitVec 16) (r : Byte) : (s.sampleInputs k r).v = s.v := rfl
@[simp] theorem sampleInputs_i (s : State) (k : BitVec 16) (r : Byte) : (s.sampleInputs k r).i = s.i := rfl
@[simp] theorem sampleInputs_pc (s : State) (k : BitVec 16) (r : Byte) : (s.sampleInputs k r).pc = s.pc := rfl
@[simp] theorem sampleInputs_stack (s : State) (k : BitVec 16) (r : Byte) : (s.sampleInputs k r).stack = s.stack := rfl
@[simp] theorem sampleInputs_stackLevel (s : State) (k : BitVec 16) (r : Byte) : (s.sampleInputs k r).stackLevel = s.stackLevel := rfl
@[simp] theorem sampleInputs_delayTimer (s : State) (k : BitVec 16) (r : Byte) : (s.sampleInputs k r).delayTimer = s.delayTimer := rfl
@[simp] theorem sampleInputs_soundTimer (s : State) (k : BitVec 16) (r : Byte) : (s.sampleInputs k r).soundTimer = s.soundTimer := rfl
@[simp] theorem sampleInputs_fb (s : State) (k : BitVec 16) (r : Byte) : (s.sampleInputs k r).fb = s.fb := rfl
@[simp] theorem sampleInputs_runState (s : State) (k : BitVec 16) (r : Byte) : (s.sampleInputs k r).runState = s.runState := rfl
@[simp] theorem sampleInputs_waitX (s : State) (k : BitVec 16) (r : Byte) : (s.sampleInputs k r).waitX = s.waitX := rfl
@[simp] theorem sampleInputs_faultCode (s : State) (k : BitVec 16) (r : Byte) : (s.sampleInputs k r).faultCode = s.faultCode := rfl
@[simp] theorem sampleInputs_faultInfo (s : State) (k : BitVec 16) (r : Byte) : (s.sampleInputs k r).faultInfo = s.faultInfo := rfl
@[simp] theorem sampleInputs_tickKeys (s : State) (k : BitVec 16) (r : Byte) : (s.sampleInputs k r).tickKeys = k := rfl
@[simp] theorem sampleInputs_tickRnd (s : State) (k : BitVec 16) (r : Byte) : (s.sampleInputs k r).tickRnd = r := rfl
@[simp] theorem sampleInputs_events (s : State) (k : BitVec 16) (r : Byte) : (s.sampleInputs k r).events = s.events := rfl
@[simp] theorem sampleInputs_eventIndex (s : State) (k : BitVec 16) (r : Byte) : (s.sampleInputs k r).eventIndex = s.eventIndex := rfl
@[simp] theorem sampleInputs_getV (s : State) (k : BitVec 16) (r : Byte) (j : Nibble) : (s.sampleInputs k r).getV j = s.getV j := rfl

/-! ### takeEvent -/

@[simp] theorem takeEvent_mem (s : State) : s.takeEvent.mem = s.mem := rfl
@[simp] theorem takeEvent_v (s : State) : s.takeEvent.v = s.v := rfl
@[simp] theorem takeEvent_i (s : State) : s.takeEvent.i = s.i := rfl
@[simp] theorem takeEvent_pc (s : State) : s.takeEvent.pc = s.pc := rfl
@[simp] theorem takeEvent_stack (s : State) : s.takeEvent.stack = s.stack := rfl
@[simp] theorem takeEvent_stackLevel (s : State) : s.takeEvent.stackLevel = s.stackLevel := rfl
@[simp] theorem takeEvent_delayTimer (s : State) : s.takeEvent.delayTimer = s.delayTimer := rfl
@[simp] theorem takeEvent_soundTimer (s : State) : s.takeEvent.soundTimer = s.soundTimer := rfl
@[simp] theorem takeEvent_fb (s : State) : s.takeEvent.fb = s.fb := rfl
@[simp] theorem takeEvent_runState (s : State) : s.takeEvent.runState = s.runState := rfl
@[simp] theorem takeEvent_waitX (s : State) : s.takeEvent.waitX = s.waitX := rfl
@[simp] theorem takeEvent_faultCode (s : State) : s.takeEvent.faultCode = s.faultCode := rfl
@[simp] theorem takeEvent_faultInfo (s : State) : s.takeEvent.faultInfo = s.faultInfo := rfl
@[simp] theorem takeEvent_tickKeys (s : State) : s.takeEvent.tickKeys = s.tickKeys := rfl
@[simp] theorem takeEvent_tickRnd (s : State) : s.takeEvent.tickRnd = s.tickRnd := rfl
@[simp] theorem takeEvent_events (s : State) : s.takeEvent.events = s.events.tail := rfl
@[simp] theorem takeEvent_eventIndex (s : State) : s.takeEvent.eventIndex = s.eventIndex + 1 := rfl
@[simp] theorem takeEvent_getV (s : State) (j : Nibble) : s.takeEvent.getV j = s.getV j := rfl

/-! ### Reading a register after a register write -/

@[simp] theorem getV_setV_self (s : State) (x : Nibble) (b : Byte) : (s.setV x b).getV x = b := by
  simp [State.getV, State.setV]

theorem getV_setV (s : State) (x k : Nibble) (b : Byte) :
    (s.setV x b).getV k = if k = x then b else s.getV k := by
  simp only [State.getV, State.setV, Vector.getElem_set]
  by_cases h : k = x
  · simp [h]
  · rw [if_neg (fun e => h (BitVec.eq_of_toNat_eq e.symm)), if_neg h]

@[simp] theorem getV_setV_ne (s : State) (x k : Nibble) (b : Byte) (h : k ≠ x) :
    (s.setV x b).getV k = s.getV k := by
  rw [getV_setV, if_neg h]

/-! ### writeFlagged -/

@[simp] theorem writeFlagged_mem (s : State) (x : Nibble) (f r : Byte) : (s.writeFlagged x f r).mem = s.mem := rfl
@[simp] theorem writeFlagged_i (s : State) (x : Nibble) (f r : Byte) : (s.writeFlagged x f r).i = s.i := rfl
@[simp] theorem writeFlagged_pc (s : State) (x : Nibble) (f r : Byte) : (s.writeFlagged x f r).pc = s.pc := rfl
@[simp] theorem writeFlagged_stack (s : State) (x : Nibble) (f r : Byte) : (s.writeFlagged x f r).stack = s.stack := rfl
@[simp] theorem writeFlagged_stackLevel (s : State) (x : Nibble) (f r : Byte) : (s.writeFlagged x f r).stackLevel = s.stackLevel := rfl
@[simp] theorem writeFlagged_delayTimer (s : State) (x : Nibble) (f r : Byte) : (s.writeFlagged x f r).delayTimer = s.delayTimer := rfl
@[simp] theorem writeFlagged_soundTimer (s : State) (x : Nibble) (f r : Byte) : (s.writeFlagged x f r).soundTimer = s.soundTimer := rfl
@[simp] theorem writeFlagged_fb (s : State) (x : Nibble) (f r : Byte) : (s.writeFlagged x f r).fb = s.fb := rfl
@[simp] theorem writeFlagged_runState (s : State) (x : Nibble) (f r : Byte) : (s.writeFlagged x f r).runState = s.runState := rfl
@[simp] theorem writeFlagged_waitX (s : State) (x : Nibble) (f r : Byte) : (s.writeFlagged x f r).waitX = s.waitX := rfl
@[simp] theorem writeFlagged_faultCode (s : State) (x : Nibble) (f r : Byte) : (s.writeFlagged x f r).faultCode = s.faultCode := rfl
@[simp] theorem writeFlagged_faultInfo (s : State) (x : Nibble) (f r : Byte) : (s.writeFlagged x f r).faultInfo = s.faultInfo := rfl
@[simp] theorem writeFlagged_tickKeys (s : State) (x : Nibble) (f r : Byte) : (s.writeFlagged x f r).tickKeys = s.tickKeys := rfl
@[simp] theorem writeFlagged_tickRnd (s : State) (x : Nibble) (f r : Byte) : (s.writeFlagged x f r).tickRnd = s.tickRnd := rfl
@[simp] theorem writeFlagged_events (s : State) (x : Nibble) (f r : Byte) : (s.writeFlagged x f r).events = s.events := rfl
@[simp] theorem writeFlagged_eventIndex (s : State) (x : Nibble) (f r : Byte) : (s.writeFlagged x f r).eventIndex = s.eventIndex := rfl

/-- Both writes of a flag-writing instruction: the result stays where x is 15 (R141). -/
@[simp] theorem writeFlagged_getV (s : State) (x k : Nibble) (f r : Byte) :
    (s.writeFlagged x f r).getV k = if k = x then r else if k = vf then f else s.getV k := by
  rw [State.writeFlagged, getV_setV, getV_setV]

end Sys2Proof.Machine
end

