-- ==== Sys2Proof/Laws/Memory.lean ====
section
/-! SUPPORT. The laws of memory: a read after a write, and that every memory operation keeps the canonical form. -/

namespace Sys2Proof.Machine

/-- A write leaves every other address alone, in every list of cells. -/
theorem byteAt_put_ne (m : Memory) (a b : Nat) (w : Byte) (h : b ≠ a) :
    Memory.byteAt (Memory.put m a w) b = Memory.byteAt m b := by
  induction m with
  | nil =>
    simp only [Memory.put]
    split
    · rfl
    · simp [Memory.byteAt, h]
  | cons c rest ih =>
    obtain ⟨d, u⟩ := c
    simp only [Memory.put]
    split
    · split
      · rfl
      · simp [Memory.byteAt, h]
    · split
      · next e =>
        subst e
        split <;> simp [Memory.byteAt, h]
      · simp only [Memory.byteAt, ih]

/-- From an address below its first entry, a canonical list reads as unlisted. -/
theorem byteAt_below (m : Memory) (lo a : Nat) (hm : Memory.wfFrom lo m = true) (h : a < lo) :
    Memory.byteAt m a = Memory.unlisted a := by
  induction m generalizing lo with
  | nil => rfl
  | cons c rest ih =>
    obtain ⟨d, u⟩ := c
    simp only [Memory.wfFrom, Bool.and_eq_true, decide_eq_true_eq] at hm
    obtain ⟨⟨⟨h1, -⟩, -⟩, h4⟩ := hm
    rw [Memory.byteAt, if_neg (by omega)]
    exact ih (d + 1) h4 (by omega)

/-- A read after a write to the same address gives the byte written, in a canonical list. -/
theorem byteAt_put_self (m : Memory) (lo a : Nat) (w : Byte) (hm : Memory.wfFrom lo m = true) :
    Memory.byteAt (Memory.put m a w) a = w := by
  induction m generalizing lo with
  | nil =>
    simp only [Memory.put]
    split
    · next h => simpa [Memory.byteAt] using h.symm
    · simp [Memory.byteAt]
  | cons c rest ih =>
    obtain ⟨d, u⟩ := c
    simp only [Memory.wfFrom, Bool.and_eq_true, decide_eq_true_eq] at hm
    obtain ⟨⟨⟨-, -⟩, -⟩, h4⟩ := hm
    simp only [Memory.put]
    split
    · next h =>
      split
      · next e =>
        rw [Memory.byteAt, if_neg (by omega), byteAt_below rest (d + 1) a h4 (by omega), e]
      · simp [Memory.byteAt]
    · split
      · next e =>
        subst e
        split
        · next e => rw [byteAt_below rest (a + 1) a h4 (by omega), e]
        · simp [Memory.byteAt]
      · next h1 h2 => rw [Memory.byteAt, if_neg h2]; exact ih (d + 1) h4

/-- A canonical list from a higher address is one from a lower address. -/
theorem wfFrom_mono (m : Memory) (lo lo' : Nat) (h : lo' ≤ lo) (hm : Memory.wfFrom lo m = true) :
    Memory.wfFrom lo' m = true := by
  cases m with
  | nil => rfl
  | cons c rest =>
    obtain ⟨d, u⟩ := c
    simp only [Memory.wfFrom, Bool.and_eq_true, decide_eq_true_eq] at hm ⊢
    obtain ⟨⟨⟨h1, h2⟩, h3⟩, h4⟩ := hm
    exact ⟨⟨⟨by omega, h2⟩, h3⟩, h4⟩

theorem put_wfFrom (m : Memory) (lo a : Nat) (w : Byte) (hlo : lo ≤ a) (ha : a < 4096)
    (hm : Memory.wfFrom lo m = true) : Memory.wfFrom lo (Memory.put m a w) = true := by
  induction m generalizing lo with
  | nil =>
    simp only [Memory.put]
    split
    · rfl
    · next h => simp [Memory.wfFrom, hlo, ha, h]
  | cons c rest ih =>
    obtain ⟨d, u⟩ := c
    have hm' := hm
    simp only [Memory.wfFrom, Bool.and_eq_true, decide_eq_true_eq] at hm'
    obtain ⟨⟨⟨h1, h2⟩, h3⟩, h4⟩ := hm'
    simp only [Memory.put]
    split
    · next h =>
      split
      · exact hm
      · next e =>
        simp only [Memory.wfFrom, Bool.and_eq_true, decide_eq_true_eq]
        exact ⟨⟨⟨hlo, ha⟩, by simpa using e⟩, ⟨⟨⟨by omega, h2⟩, h3⟩, h4⟩⟩
    · split
      · next e =>
        subst e
        split
        · exact wfFrom_mono rest (a + 1) lo (by omega) h4
        · next e =>
          simp only [Memory.wfFrom, Bool.and_eq_true, decide_eq_true_eq]
          exact ⟨⟨⟨hlo, ha⟩, by simpa using e⟩, h4⟩
      · simp only [Memory.wfFrom, Bool.and_eq_true, decide_eq_true_eq]
        exact ⟨⟨⟨h1, h2⟩, h3⟩, ih (d + 1) (by omega) h4⟩

/-- A write inside the address space keeps the canonical form. -/
theorem put_wf (m : Memory) (a : Nat) (w : Byte) (ha : a < 4096) (hm : m.wf = true) :
    (Memory.put m a w).wf = true :=
  put_wfFrom m 0 a w (Nat.zero_le a) ha hm

/-- Writing bytes inside the address space keeps the canonical form. -/
theorem putBytes_wf (bs : List Byte) (m : Memory) (a : Nat) (h : a + bs.length ≤ 4096)
    (hm : m.wf = true) : (Memory.putBytes m a bs).wf = true := by
  induction bs generalizing m a with
  | nil => exact hm
  | cons b bs ih =>
    simp only [List.length_cons] at h
    exact ih (Memory.put m a b) (a + 1) (by omega) (put_wf m a b (by omega) hm)

/-- Writing bytes leaves every address outside them alone, in every list of cells. -/
theorem byteAt_putBytes_outside (bs : List Byte) (m : Memory) (a b : Nat) (h : b < a ∨ a + bs.length ≤ b) :
    Memory.byteAt (Memory.putBytes m a bs) b = Memory.byteAt m b := by
  induction bs generalizing m a with
  | nil => rfl
  | cons c bs ih =>
    simp only [List.length_cons] at h
    rw [Memory.putBytes, ih (Memory.put m a c) (a + 1) (by omega), byteAt_put_ne m a b c (by omega)]

/-- Written bytes are read back, from a canonical memory and inside the address space. -/
theorem byteAt_putBytes_inside (bs : List Byte) (m : Memory) (a k : Nat) (h : a + bs.length ≤ 4096)
    (hm : m.wf = true) (hk : k < bs.length) :
    Memory.byteAt (Memory.putBytes m a bs) (a + k) = bs.getD k 0 := by
  induction bs generalizing m a k with
  | nil => simp at hk
  | cons c bs ih =>
    simp only [List.length_cons] at h hk
    rw [Memory.putBytes]
    cases k with
    | zero =>
      rw [byteAt_putBytes_outside bs _ (a + 1) (a + 0) (by omega), Nat.add_zero,
        byteAt_put_self m 0 a c hm]
      rfl
    | succ k =>
      rw [show a + (k + 1) = a + 1 + k by omega,
        ih (Memory.put m a c) (a + 1) k (by omega) (put_wf m a c (by omega) hm) (by omega)]
      simp

@[simp] theorem bytesAt_length (m : Memory) (a n : Nat) : (Memory.bytesAt m a n).length = n := by
  induction n generalizing a with
  | zero => rfl
  | succ n ih => simp [Memory.bytesAt, ih]

/-- The k-th of the bytes read from `a` on. -/
theorem bytesAt_getD (m : Memory) (a n k : Nat) (h : k < n) :
    (Memory.bytesAt m a n).getD k 0 = Memory.byteAt m (a + k) := by
  induction n generalizing a k with
  | zero => omega
  | succ n ih =>
    cases k with
    | zero => rfl
    | succ k =>
      rw [show a + (k + 1) = a + 1 + k by omega, ← ih (a + 1) k (by omega)]
      simp [Memory.bytesAt]

/-- The bounds check in words (R56). -/
theorem rangeOk_iff (base count : Nat) : rangeOk base count = true ↔ count = 0 ∨ base + count ≤ 4096 := by
  simp only [rangeOk, Bool.or_eq_true, beq_iff_eq, decide_eq_true_eq]
  omega

end Sys2Proof.Machine
end

