-- ==== Sys2Proof/Laws/Registers.lean ====
section
/-! SUPPORT. The laws of the operations over several registers, of the call-stack levels, and of the frame buffer's
cells: once for each operation, everything it can do. -/

namespace Sys2Proof.Machine

@[simp] theorem regsFrom_length (s : State) (k n : Nat) : (s.regsFrom k n).length = n := by
  induction n generalizing k with
  | zero => rfl
  | succ n ih => simp [State.regsFrom, ih]

/-- The j-th of the registers listed from `V[k]` on. -/
theorem regsFrom_getD (s : State) (k n j : Nat) (h : j < n) :
    (s.regsFrom k n).getD j 0 = s.getV (BitVec.ofNat 4 (k + j)) := by
  induction n generalizing k j with
  | zero => omega
  | succ n ih =>
    cases j with
    | zero => rfl
    | succ j =>
      rw [show k + (j + 1) = k + 1 + j by omega, ← ih (k + 1) j (by omega)]
      simp [State.regsFrom]

/-- Loading registers writes only V registers. -/
theorem loadRegs_eq (s : State) (base n : Nat) : ∃ v, s.loadRegs base n = { s with v := v } := by
  induction n with
  | zero => exact ⟨s.v, rfl⟩
  | succ n ih =>
    obtain ⟨v, hv⟩ := ih
    exact ⟨v.set (BitVec.ofNat 4 n).toNat (Memory.byteAt s.mem (base + n)) (BitVec.ofNat 4 n).isLt, by
      simp only [State.loadRegs, hv, State.setV]⟩

/-- What register k holds after the first n (at most 16) registers were loaded. -/
theorem loadRegs_getV (s : State) (base n : Nat) (hn : n ≤ 16) (k : Nibble) :
    (s.loadRegs base n).getV k = if k.toNat < n then Memory.byteAt s.mem (base + k.toNat) else s.getV k := by
  induction n with
  | zero => simp [State.loadRegs]
  | succ n ih =>
    rw [State.loadRegs, getV_setV, ih (by omega)]
    have hofn : (BitVec.ofNat 4 n).toNat = n := by simp [BitVec.toNat_ofNat]; omega
    by_cases h : k = BitVec.ofNat 4 n
    · have hk : k.toNat = n := by rw [h, hofn]
      rw [if_pos h, if_pos (by omega), hk]
    · have hk : k.toNat ≠ n := fun e => h (BitVec.eq_of_toNat_eq (by rw [hofn, e]))
      rw [if_neg h]
      by_cases h2 : k.toNat < n
      · rw [if_pos h2, if_pos (by omega)]
      · rw [if_neg h2, if_neg (by omega)]

/-- The slot a Call writes, at every level below 15 (R112). -/
theorem nextSlot_some (k : Fin 16) (h : k.val < 15) : nextSlot (some k) = some ⟨k.val + 1, by omega⟩ := by
  simp [nextSlot, h]

theorem nextSlot_none_iff (l : Option (Fin 16)) : nextSlot l = none ↔ l = some 15 := by
  revert l; decide

/-- A Return lowers to the level a Call came from (R114). -/
theorem lowerLevel_nextSlot (l : Option (Fin 16)) (k : Fin 16) (h : nextSlot l = some k) : lowerLevel k = l := by
  revert l k; decide

/-- A cell after a cell write. -/
theorem cell_setCell (f : FrameBuffer) (c c' : Fin 64) (r r' : Fin 32) (b : Bool) :
    (f.setCell c r b).cell c' r' = if c' = c ∧ r' = r then b else f.cell c' r' := by
  unfold FrameBuffer.cell FrameBuffer.setCell
  by_cases hc : c' = c
  · subst hc
    by_cases hr : r' = r
    · subst hr; simp
    · have : r.val ≠ r'.val := fun e => hr (Fin.ext e.symm)
      simp [hr, this]
  · have : c.val ≠ c'.val := fun e => hc (Fin.ext e.symm)
    simp [hc, this]

@[simp] theorem cell_blank (c : Fin 64) (r : Fin 32) : FrameBuffer.blank.cell c r = false := by
  simp [FrameBuffer.cell, FrameBuffer.blank]

/-- One plotted bit, cell by cell: the cell it lands on is toggled, every other one is left alone. -/
theorem plot_cell (d : Drawing) (col : Nat) (row : Fin 32) (bit : Bool) (c : Fin 64) (r : Fin 32) :
    (d.plot col row bit).grid.cell c r =
      ((d.grid.cell c r) ^^ (bit && decide (c.val = col) && decide (r = row))) := by
  simp only [Drawing.plot]
  split
  · next h =>
    cases bit
    · simp
    · simp only [if_true, cell_setCell, Bool.true_and]
      by_cases hc : c = ⟨col, h⟩
      · subst hc
        by_cases hr : r = row
        · subst hr; simp
        · simp [hr]
      · have : c.val ≠ col := fun e => hc (Fin.ext e)
        simp [hc, this]
  · next h =>
    have : c.val ≠ col := by omega
    simp [this]

end Sys2Proof.Machine
end

