-- ==== Sys2Proof/Laws/Exec.lean ====
section
/-! SUPPORT. What the execution of any instruction does to the run state, to memory and to the timers, said once. -/

namespace Sys2Proof.Machine

/-- The run state and its record stay, or Fx0A suspends, or a fault halts. -/
theorem exec_status_cases (i : Instr) (s t : State) (h : exec i s = .next t) :
    (t.runState = s.runState ∧ t.waitX = s.waitX ∧ t.faultCode = s.faultCode ∧ t.faultInfo = s.faultInfo) ∨
    (∃ x, i = .ldVxK x ∧ t = s.suspend x) ∨ (∃ f info, f ≠ .noFault ∧ t = s.halt f info) := by
  cases i <;> simp only [exec, execRet, execCall, execDrw, execSkpVx, execSknpVx, execLdBVx, execLdMemVx,
    execLdVxMem, raise, raiseKeyIndex, execLdVxK] at h
  case ldVxK x => exact .inr (.inl ⟨x, rfl, by injection h with h; exact h.symm⟩)
  case ldVxMem x =>
    obtain ⟨v, hv⟩ := loadRegs_eq s s.base (regCount x)
    rw [hv] at h
    split at h
    · injection h with h
      subst h
      exact .inl (by simp)
    · injection h with h
      exact .inr (.inr ⟨_, _, by simp, h.symm⟩)
  all_goals (try split at h)
  all_goals injection h with h
  all_goals first
    | exact .inr (.inr ⟨_, _, by simp, h.symm⟩)
    | (subst h; exact .inl (by simp))

/-- Memory stays, or a run of bytes from `i` on, inside the address space, is written. -/
theorem exec_mem_cases (i : Instr) (s t : State) (h : exec i s = .next t) :
    t.mem = s.mem ∨ ∃ bs, s.base + bs.length ≤ Config.memSize ∧ t.mem = Memory.putBytes s.mem s.base bs := by
  cases i <;> simp only [exec, execRet, execCall, execDrw, execSkpVx, execSknpVx, execLdBVx, execLdMemVx,
    execLdVxMem, raise, raiseKeyIndex, execLdVxK] at h
  case ldVxMem x =>
    obtain ⟨v, hv⟩ := loadRegs_eq s s.base (regCount x)
    rw [hv] at h
    split at h <;> (injection h with h; subst h; exact .inl (by simp))
  case ldMemVx x =>
    split at h
    · next hr =>
      injection h with h
      subst h
      refine .inr ⟨s.regsFrom 0 (regCount x), ?_, rfl⟩
      rw [rangeOk_iff] at hr
      simp [regCount, Config.memSize] at hr ⊢
      omega
    · injection h with h
      subst h
      exact .inl rfl
  case ldBVx x =>
    split at h
    · next hr =>
      injection h with h
      subst h
      refine .inr ⟨bcdDigits (s.getV x), ?_, rfl⟩
      rw [rangeOk_iff] at hr
      simp [bcdDigits, Config.memSize] at hr ⊢
      omega
    · injection h with h
      subst h
      exact .inl rfl
  all_goals left
  all_goals (try split at h)
  all_goals injection h with h
  all_goals (subst h; simp)

/-- Only Fx15 writes the delay timer and only Fx18 the sound timer. -/
theorem exec_timers (i : Instr) (s t : State) (h : exec i s = .next t) :
    ((∀ x, i ≠ .ldDtVx x) → t.delayTimer = s.delayTimer) ∧
    ((∀ x, i ≠ .ldStVx x) → t.soundTimer = s.soundTimer) := by
  cases i <;> simp only [exec, execRet, execCall, execDrw, execSkpVx, execSknpVx, execLdBVx, execLdMemVx,
    execLdVxMem, raise, raiseKeyIndex, execJp] at h
  case ldVxMem x =>
    obtain ⟨v, hv⟩ := loadRegs_eq s s.base (regCount x)
    rw [hv] at h
    split at h <;> (injection h with h; subst h; simp)
  all_goals (try split at h)
  all_goals (injection h with h; subst h; simp)

end Sys2Proof.Machine
end

