-- ==== Sys2Proof/Laws/PerInstr.lean ====
section
/-! SUPPORT. Statements about every instruction as syntax, proved one constructor at a time. -/

namespace Sys2Proof.Laws

/-- The family nibble the decoder table gives each instruction's pattern (R75). -/
def familyNibble : Instr → Nibble
  | .cls | .ret => 0x0
  | .jp _ => 0x1
  | .call _ => 0x2
  | .seVxKk _ _ => 0x3
  | .sneVxKk _ _ => 0x4
  | .seVxVy _ _ => 0x5
  | .ldVxKk _ _ => 0x6
  | .addVxKk _ _ => 0x7
  | .ldVxVy _ _ | .orVxVy _ _ | .andVxVy _ _ | .xorVxVy _ _ | .addVxVy _ _ | .subVxVy _ _ | .shrVx _ _
  | .subnVxVy _ _ | .shlVx _ _ | .nop8 _ _ _ => 0x8
  | .sneVxVy _ _ => 0x9
  | .ldINnn _ => 0xA
  | .jpV0 _ => 0xB
  | .rndVxKk _ _ => 0xC
  | .drw _ _ _ => 0xD
  | .skpVx _ | .sknpVx _ => 0xE
  | .ldVxDt _ | .ldVxK _ | .ldDtVx _ | .ldStVx _ | .addIVx _ | .ldFVx _ | .ldBVx _ | .ldMemVx _ | .ldVxMem _
  | .nopF _ _ => 0xF

/-- The encoder puts every instruction into the family of its row (R72, R75). -/
def Family.Statement (i : Instr) : Prop := fieldOp (encode i) = familyNibble i

theorem Family.cls : Family.Statement .cls := by
  simp only [Family.Statement]
  decide
theorem Family.ret : Family.Statement .ret := by
  simp only [Family.Statement]
  decide
theorem Family.seVxVy (x y : Nibble) : Family.Statement (.seVxVy x y) := fieldOp_wordR _ _ _ _
theorem Family.sneVxVy (x y : Nibble) : Family.Statement (.sneVxVy x y) := fieldOp_wordR _ _ _ _
theorem Family.ldVxVy (x y : Nibble) : Family.Statement (.ldVxVy x y) := fieldOp_wordR _ _ _ _
theorem Family.orVxVy (x y : Nibble) : Family.Statement (.orVxVy x y) := fieldOp_wordR _ _ _ _
theorem Family.andVxVy (x y : Nibble) : Family.Statement (.andVxVy x y) := fieldOp_wordR _ _ _ _
theorem Family.xorVxVy (x y : Nibble) : Family.Statement (.xorVxVy x y) := fieldOp_wordR _ _ _ _
theorem Family.addVxVy (x y : Nibble) : Family.Statement (.addVxVy x y) := fieldOp_wordR _ _ _ _
theorem Family.subVxVy (x y : Nibble) : Family.Statement (.subVxVy x y) := fieldOp_wordR _ _ _ _
theorem Family.shrVx (x y : Nibble) : Family.Statement (.shrVx x y) := fieldOp_wordR _ _ _ _
theorem Family.subnVxVy (x y : Nibble) : Family.Statement (.subnVxVy x y) := fieldOp_wordR _ _ _ _
theorem Family.shlVx (x y : Nibble) : Family.Statement (.shlVx x y) := fieldOp_wordR _ _ _ _
theorem Family.skpVx (x : Nibble) : Family.Statement (.skpVx x) := fieldOp_wordI _ _ _
theorem Family.sknpVx (x : Nibble) : Family.Statement (.sknpVx x) := fieldOp_wordI _ _ _
theorem Family.ldVxDt (x : Nibble) : Family.Statement (.ldVxDt x) := fieldOp_wordI _ _ _
theorem Family.ldVxK (x : Nibble) : Family.Statement (.ldVxK x) := fieldOp_wordI _ _ _
theorem Family.ldDtVx (x : Nibble) : Family.Statement (.ldDtVx x) := fieldOp_wordI _ _ _
theorem Family.ldStVx (x : Nibble) : Family.Statement (.ldStVx x) := fieldOp_wordI _ _ _
theorem Family.addIVx (x : Nibble) : Family.Statement (.addIVx x) := fieldOp_wordI _ _ _
theorem Family.ldFVx (x : Nibble) : Family.Statement (.ldFVx x) := fieldOp_wordI _ _ _
theorem Family.ldBVx (x : Nibble) : Family.Statement (.ldBVx x) := fieldOp_wordI _ _ _
theorem Family.ldMemVx (x : Nibble) : Family.Statement (.ldMemVx x) := fieldOp_wordI _ _ _
theorem Family.ldVxMem (x : Nibble) : Family.Statement (.ldVxMem x) := fieldOp_wordI _ _ _
theorem Family.jp (nnn : Addr) : Family.Statement (.jp nnn) := fieldOp_wordA _ _
theorem Family.call (nnn : Addr) : Family.Statement (.call nnn) := fieldOp_wordA _ _
theorem Family.seVxKk (x : Nibble) (kk : Byte) : Family.Statement (.seVxKk x kk) := fieldOp_wordI _ _ _
theorem Family.sneVxKk (x : Nibble) (kk : Byte) : Family.Statement (.sneVxKk x kk) := fieldOp_wordI _ _ _
theorem Family.ldVxKk (x : Nibble) (kk : Byte) : Family.Statement (.ldVxKk x kk) := fieldOp_wordI _ _ _
theorem Family.addVxKk (x : Nibble) (kk : Byte) : Family.Statement (.addVxKk x kk) := fieldOp_wordI _ _ _
theorem Family.nop8 (x y n : Nibble) : Family.Statement (.nop8 x y n) := fieldOp_wordR _ _ _ _
theorem Family.ldINnn (nnn : Addr) : Family.Statement (.ldINnn nnn) := fieldOp_wordA _ _
theorem Family.jpV0 (nnn : Addr) : Family.Statement (.jpV0 nnn) := fieldOp_wordA _ _
theorem Family.rndVxKk (x : Nibble) (kk : Byte) : Family.Statement (.rndVxKk x kk) := fieldOp_wordI _ _ _
theorem Family.drw (x y n : Nibble) : Family.Statement (.drw x y n) := fieldOp_wordR _ _ _ _
theorem Family.nopF (x : Nibble) (kk : Byte) : Family.Statement (.nopF x kk) := fieldOp_wordI _ _ _

end Sys2Proof.Laws
end

