-- ==== Sys2Proof/Laws/Step.lean ====
section
/-! SUPPORT. What a fetch, a Tick and a step can answer, said once. -/

namespace Sys2Proof.Machine

/-- The fetch succeeds exactly when both bytes lie in memory (R92). -/
theorem fetchWord_eq_some (s : State) (w : Word) :
    s.fetchWord = some w ↔
      s.pc.toNat ≤ 4094 ∧
        w = wordOfBytes (Memory.byteAt s.mem s.pc.toNat) (Memory.byteAt s.mem (s.pc.toNat + 1)) := by
  simp only [State.fetchWord]
  split
  · constructor
    · simp
    · omega
  · constructor
    · intro h; exact ⟨by omega, by simpa using h.symm⟩
    · rintro ⟨-, rfl⟩; rfl

theorem fetchWord_eq_none (s : State) : s.fetchWord = none ↔ s.pc.toNat > 4094 := by
  simp only [State.fetchWord]
  split
  · simp; omega
  · simp; omega

/-- The fetch reads `pc` and memory only. -/
theorem fetchWord_congr (s t : State) (hpc : t.pc = s.pc) (hmem : t.mem = s.mem) : t.fetchWord = s.fetchWord := by
  simp only [State.fetchWord, hpc, hmem]

@[simp] theorem prepared_fetchWord (s : State) (keys : BitVec 16) (rnd : Byte) :
    (s.prepared keys rnd).fetchWord = s.fetchWord := rfl

@[simp] theorem takeEvent_fetchWord (s : State) : s.takeEvent.fetchWord = s.fetchWord := rfl

/-- A word the decoder recognizes, in terms of the table. -/
theorem decode_eq_instr (w : Word) (i : Instr) : decode w = .instr i ↔ decodeWord w = some i := by
  simp only [decode]
  split <;> simp_all

/-- The rejection carries the word that was rejected. -/
theorem decode_eq_unrecognized (w u : Word) : decode w = .unrecognized u ↔ decodeWord w = none ∧ u = w := by
  simp only [decode]
  split
  · simp_all
  · simp_all [eq_comm]

/-- A Tick taken in RUNNING (R90). -/
theorem tick_running (keys : BitVec 16) (rnd : Byte) (s : State) (h : s.runState = .running) :
    tick keys rnd s = fetchExecute (s.sampleInputs keys rnd).timerCountdown := by
  simp only [tick, h]

/-- A Tick taken outside RUNNING (R95). -/
theorem tick_idle (keys : BitVec 16) (rnd : Byte) (s : State) (h : s.runState ≠ .running) :
    tick keys rnd s = .next s := by
  simp only [tick]
  split
  · next e => exact absurd e h
  · rfl
  · rfl

/-- Everything a step can do: a Reset, a KeyEvent, an idle Tick, a fetch fault, an unrecognized word, or the decoded
instruction executed on the prepared state. -/
theorem step_cases (s t : State) (h : step s = .next t) :
    (∃ image, s.nextEvent = .reset image ∧ image.length ≤ Config.progMax ∧ t = s.takeEvent.resetWith image) ∨
    (∃ k, s.nextEvent = .keyEvent k ∧ t = s.takeEvent.keyEvent k) ∨
    (∃ keys rnd, s.nextEvent = .tick keys rnd ∧ s.runState ≠ .running ∧ t = s.takeEvent) ∨
    (∃ keys rnd, s.nextEvent = .tick keys rnd ∧ s.runState = .running ∧ s.fetchWord = none ∧
      t = (s.prepared keys rnd).halt .memoryOutOfBounds s.pc) ∨
    (∃ keys rnd w, s.nextEvent = .tick keys rnd ∧ s.runState = .running ∧ s.fetchWord = some w ∧
      decode w = .unrecognized w ∧ t = (s.prepared keys rnd).halt .unrecognizedOpcode w) ∨
    (∃ keys rnd w i, s.nextEvent = .tick keys rnd ∧ s.runState = .running ∧ s.fetchWord = some w ∧
      decode w = .instr i ∧ exec i (s.prepared keys rnd) = .next t) := by
  unfold step deliver at h
  split at h
  · next image he =>
    split at h
    · next hl =>
      refine .inl ⟨image, he, hl, ?_⟩
      injection h with h; exact h.symm
    · cases h
  · next keys rnd he =>
    by_cases hr : s.runState = .running
    · rw [tick_running keys rnd s.takeEvent hr] at h
      change fetchExecute (s.prepared keys rnd) = _ at h
      simp only [fetchExecute, prepared_fetchWord] at h
      split at h
      · next hw =>
        refine .inr (.inr (.inr (.inl ⟨keys, rnd, he, hr, hw, ?_⟩)))
        injection h with h; exact h.symm
      · next w hw =>
        split at h
        · next i hi => exact .inr (.inr (.inr (.inr (.inr ⟨keys, rnd, w, i, he, hr, hw, hi, h⟩))))
        · next u hu =>
          obtain ⟨-, rfl⟩ := (decode_eq_unrecognized w u).mp hu
          refine .inr (.inr (.inr (.inr (.inl ⟨keys, rnd, u, he, hr, hw, hu, ?_⟩))))
          injection h with h; exact h.symm
    · rw [tick_idle keys rnd s.takeEvent hr] at h
      refine .inr (.inr (.inl ⟨keys, rnd, he, hr, ?_⟩))
      injection h with h; exact h.symm
  · next k he =>
    refine .inr (.inl ⟨k, he, ?_⟩)
    injection h with h; exact h.symm

/-- A word at `pc` that decodes is the only instruction fetched. -/
theorem fetches_iff (s : State) (w : Word) (i j : Instr) (hw : s.fetchWord = some w) (hd : decode w = .instr i) :
    s.fetches j ↔ j = i := by
  constructor
  · rintro ⟨u, hu, hj⟩
    obtain rfl : w = u := by simpa [hw] using hu
    rw [hd] at hj
    injection hj with h
    exact h.symm
  · rintro rfl; exact ⟨w, hw, hd⟩

/-- A Tick taken in RUNNING, as the prepared state sees it. -/
theorem step_running_tick (s : State) (keys : BitVec 16) (rnd : Byte) (hr : s.runState = .running)
    (he : s.nextEvent = .tick keys rnd) : step s = fetchExecute (s.prepared keys rnd) := by
  simp only [step, he, deliver, tick_running keys rnd s.takeEvent hr]
  rfl

/-- One more step of a run of any machine. -/
theorem core_run_succ (M : Host.Core) (n : Nat) (s t : M.State) (h : M.step s = .next t) :
    M.run (n + 1) s = M.run n t := by
  simp only [Host.Core.run, h]

/-- One more step of a run of this machine. -/
theorem run_succ (n : Nat) (s t : State) (h : step s = .next t) :
    Host.Core.run core (n + 1) s = Host.Core.run core n t :=
  core_run_succ core n s t h

end Sys2Proof.Machine
end

