-- ==== Sys2Proof/Tests/Slice0.lean ====
section
/-! SUPPORT. The model's own tests: the well-formedness checks, words written out from the encoding patterns of
spec/30_encoding.md, single instructions with the results of spec/95_test_vectors.md (its identifiers stand in the
comments), and a witness for every statement of the obligations that has a hypothesis. -/

namespace Sys2Proof.Tests

open Sys2Proof Sys2Proof.Machine

/-! ### Well-formed terms -/

theorem test_wellFormed_refuses_nop8 : (Instr.nop8 1 2 4).wellFormed = false := by decide

theorem test_wellFormed_refuses_nopF : (Instr.nopF 1 0x07).wellFormed = false := by decide

theorem test_wellFormed_accepts :
    (Instr.nop8 1 2 0xF).wellFormed = true ∧ (Instr.nopF 1 0x75).wellFormed = true ∧
      (Instr.drw 0xF 0xF 0).wellFormed = true := by decide

/-! ### Decoding of written words: every constructor, and the rejections (vectors DE1 to DE42) -/

theorem test_decode_exact : decode 0x00E0 = .instr .cls ∧ decode 0x00EE = .instr .ret := by decide

theorem test_decode_skips :
    decode 0x5AB0 = .instr (.seVxVy 0xA 0xB) ∧ decode 0x9AB0 = .instr (.sneVxVy 0xA 0xB) ∧
      decode 0x3A42 = .instr (.seVxKk 0xA 0x42) ∧ decode 0x4B01 = .instr (.sneVxKk 0xB 0x01) := by decide

/-- DE14 to DE20, and the sub-opcodes between them (R74). -/
theorem test_decode_alu :
    decode 0x8AB0 = .instr (.ldVxVy 0xA 0xB) ∧ decode 0x8AB1 = .instr (.orVxVy 0xA 0xB) ∧
      decode 0x8AB2 = .instr (.andVxVy 0xA 0xB) ∧ decode 0x8AB3 = .instr (.xorVxVy 0xA 0xB) ∧
      decode 0x8AB4 = .instr (.addVxVy 0xA 0xB) ∧ decode 0x8AB5 = .instr (.subVxVy 0xA 0xB) ∧
      decode 0x8AB6 = .instr (.shrVx 0xA 0xB) ∧ decode 0x8AB7 = .instr (.subnVxVy 0xA 0xB) ∧
      decode 0x8ABE = .instr (.shlVx 0xA 0xB) := by decide

theorem test_decode_nop8 :
    decode 0x8AB8 = .instr (.nop8 0xA 0xB 0x8) ∧ decode 0x8ABD = .instr (.nop8 0xA 0xB 0xD) ∧
      decode 0x8ABF = .instr (.nop8 0xA 0xB 0xF) := by decide

theorem test_decode_keypad : decode 0xE19E = .instr (.skpVx 1) ∧ decode 0xE1A1 = .instr (.sknpVx 1) := by decide

theorem test_decode_misc :
    decode 0xF107 = .instr (.ldVxDt 1) ∧ decode 0xF10A = .instr (.ldVxK 1) ∧ decode 0xF115 = .instr (.ldDtVx 1) ∧
      decode 0xF118 = .instr (.ldStVx 1) ∧ decode 0xF11E = .instr (.addIVx 1) ∧ decode 0xF129 = .instr (.ldFVx 1) ∧
      decode 0xF133 = .instr (.ldBVx 1) ∧ decode 0xF155 = .instr (.ldMemVx 1) ∧
      decode 0xF165 = .instr (.ldVxMem 1) := by decide

theorem test_decode_nopF :
    decode 0xF100 = .instr (.nopF 1 0x00) ∧ decode 0xF175 = .instr (.nopF 1 0x75) ∧
      decode 0xFFFF = .instr (.nopF 0xF 0xFF) := by decide

theorem test_decode_address :
    decode 0x1ABC = .instr (.jp 0xABC) ∧ decode 0x2F00 = .instr (.call 0xF00) ∧
      decode 0xA123 = .instr (.ldINnn 0x123) ∧ decode 0xB123 = .instr (.jpV0 0x123) := by decide

theorem test_decode_immediate :
    decode 0x6C7F = .instr (.ldVxKk 0xC 0x7F) ∧ decode 0x7DFF = .instr (.addVxKk 0xD 0xFF) ∧
      decode 0xC1FF = .instr (.rndVxKk 1 0xFF) := by decide

theorem test_decode_draw : decode 0xD125 = .instr (.drw 1 2 5) := by decide

theorem test_decode_rejects :
    decode 0x0000 = .unrecognized 0x0000 ∧ decode 0x00E1 = .unrecognized 0x00E1 ∧
      decode 0x0123 = .unrecognized 0x0123 ∧ decode 0x5AB1 = .unrecognized 0x5AB1 ∧
      decode 0x9ABF = .unrecognized 0x9ABF ∧ decode 0xE19F = .unrecognized 0xE19F ∧
      decode 0xE000 = .unrecognized 0xE000 := by decide

/-- "memory[0x200] = 0xA1, memory[0x201] = 0x23 is the word 0xA123, not 0x23A1", and the bytes after it are left. -/
theorem test_decode_bytes : decodeBytes [0xA1, 0x23, 0x60] = .instr (.ldINnn 0x123) [0x60] := by decide

theorem test_decode_bytes_short : decodeBytes [0xA1] = .truncated ∧ decodeBytes [] = .truncated := by decide

theorem test_decode_bytes_rejects : decodeBytes [0x5A, 0xB1, 0] = .unrecognized 0x5AB1 [0] := by decide

theorem test_decode_table_word :
    decodeTableWord 16 0xD125 = some (.drw 1 2 5) ∧ decodeTableWord 16 0x0000 = none := by decide

/-! ### Single instructions -/

/-- Whether an answer is a next state with a property. -/
def answers (a : Answer) (p : State → Bool) : Bool :=
  match a with
  | .next t => p t
  | .fault _ => false
  | .refused _ => false

/-- `s` with some registers written. -/
def withV (l : List (Nibble × Byte)) (s : State) : State := l.foldl (fun u e => u.setV e.1 e.2) s

/-- `s` with some bytes of memory written. -/
def withBytes (a : Nat) (l : List Byte) (s : State) : State := s.setMem (Memory.putBytes s.mem a l)

/-- `s` with some events to come. -/
def withEvents (l : List HostEvent) (s : State) : State := { s with events := l }

/-- `s` with a run state and a wait register. -/
def withRun (r : RunState) (x : Nibble) (s : State) : State := { s with runState := r, waitX := x }

/-- The step of a Tick at `s` whose fetched word is `w`. -/
def tickOn (w : Word) (s : State) : Answer := step (withEvents [.tick 0 0] (s.placeWord w))

/-- The grid with these cells on. -/
def cells (l : List (Fin 64 × Fin 32)) : FrameBuffer := l.foldl (fun f e => f.setCell e.1 e.2 true) FrameBuffer.blank

/-- Whether these cells are on and those are off: a few cells of each vector. -/
def lit (on off : List (Fin 64 × Fin 32)) (t : State) : Bool :=
  on.all (fun e => t.fb.cell e.1 e.2) && off.all (fun e => !t.fb.cell e.1 e.2)

/-- V[0], V[1] and VF after `w`, with these values before: the form of the ALU vectors. -/
def alu (w : Word) (a b flag r flag' : Byte) : Bool :=
  answers (tickOn w (withV [(0, a), (1, b), (15, flag)] .reset))
    fun t => t.getV 0 == r && t.getV 1 == b && t.getV 15 == flag' && t.pc == 0x202

/-- A halted state with this code, information and pc. -/
def haltedAt (f : FaultCode) (info pc : Word) (t : State) : Bool :=
  t.runState == .halted && t.faultCode == f && t.faultInfo == info && t.pc == pc

/-- `s` with this call stack level and slot. -/
def withStack (k : Fin 16) (a : Word) (s : State) : State := s.pushAt k a

/-- CF1. -/
theorem test_jp : answers (tickOn 0x1ABC (State.reset.setPc 0x250)) (fun t => t.pc == 0xABC) = true := by decide

/-- CF5: the last free slot. -/
theorem test_call : answers (tickOn 0x2400 ((withStack 14 0x111 .reset).setPc 0x250))
    (fun t => t.stackLevel == some 15 && t.stack[15] == 0x250 && t.stack[14] == 0x111 && t.pc == 0x400) = true := by
  decide

/-- CF6. -/
theorem test_call_overflow : answers (tickOn 0x2400 ((withStack 15 0x111 .reset).setPc 0x250))
    (fun t => haltedAt .stackOverflow 0x0250 0x250 t && t.stackLevel == some 15 && t.stack[15] == 0x111) = true := by
  decide

/-- CF7. -/
theorem test_ret : answers (tickOn 0x00EE ((withStack 0 0x250 .reset).setPc 0x400))
    (fun t => t.pc == 0x252 && t.stackLevel == none && t.stack[0] == 0x250) = true := by decide

/-- CF8. -/
theorem test_ret_underflow : answers (tickOn 0x00EE (State.reset.setPc 0x400))
    (fun t => haltedAt .stackUnderflow 0x0400 0x400 t && t.stackLevel == none) = true := by decide

/-- CF11. -/
theorem test_jpV0 : answers (tickOn 0xBFFF (withV [(0, 0xFF)] .reset)) (fun t => t.pc == 0x10FE) = true := by decide

/-- SK1, SK2. -/
theorem test_seVxKk : answers (tickOn 0x332A (withV [(3, 0x2A)] .reset)) (fun t => t.pc == 0x204) = true ∧
    answers (tickOn 0x332A (withV [(3, 0x2B)] .reset)) (fun t => t.pc == 0x202) = true := by decide

/-- SK3, SK4. -/
theorem test_sneVxKk : answers (tickOn 0x432A (withV [(3, 0x2A)] .reset)) (fun t => t.pc == 0x202) = true ∧
    answers (tickOn 0x432A .reset) (fun t => t.pc == 0x204) = true := by decide

/-- SK5, SK6. -/
theorem test_seVxVy : answers (tickOn 0x5120 (withV [(1, 7), (2, 7)] .reset)) (fun t => t.pc == 0x204) = true ∧
    answers (tickOn 0x5120 (withV [(1, 7), (2, 8)] .reset)) (fun t => t.pc == 0x202) = true := by decide

/-- SK7, SK8. -/
theorem test_sneVxVy : answers (tickOn 0x9120 (withV [(1, 7), (2, 8)] .reset)) (fun t => t.pc == 0x204) = true ∧
    answers (tickOn 0x9120 (withV [(1, 7), (2, 7)] .reset)) (fun t => t.pc == 0x202) = true := by decide

/-- LA1. -/
theorem test_ldVxKk : answers (tickOn 0x6AFF .reset) (fun t => t.getV 10 == 0xFF && t.pc == 0x202) = true := by decide

/-- LA3: no flag. -/
theorem test_addVxKk : answers (tickOn 0x720A (withV [(2, 0xFA)] .reset))
    (fun t => t.getV 2 == 0x04 && t.getV 15 == 0) = true := by decide

/-- LA8. -/
theorem test_ldINnn : answers (tickOn 0xAFFF .reset) (fun t => t.i == 0x0FFF) = true := by decide

/-- LA9: `rnd = 0xB7`. -/
theorem test_rndVxKk : answers (step (withEvents [.tick 0 0xB7] (State.reset.placeWord 0xC30F)))
    (fun t => t.getV 3 == 0x07) = true := by decide

/-- AL1. -/
theorem test_ldVxVy : alu 0x8010 0x00 0x3C 0x55 0x3C 0x55 = true := by decide

/-- AL2. -/
theorem test_orVxVy : alu 0x8011 0xF0 0x0F 0x55 0xFF 0x55 = true := by decide

/-- AL3. -/
theorem test_andVxVy : alu 0x8012 0xF0 0x3C 0x55 0x30 0x55 = true := by decide

/-- AL4. -/
theorem test_xorVxVy : alu 0x8013 0xF0 0x3C 0x55 0xCC 0x55 = true := by decide

/-- S3, AL6. -/
theorem test_addVxVy : alu 0x8014 250 10 0 4 1 = true ∧ alu 0x8014 255 0 1 255 0 = true := by decide

/-- S6, AL10, AL14: equal operands give 0 in VF. -/
theorem test_subVxVy : alu 0x8015 3 10 1 249 0 = true ∧ alu 0x8015 5 5 1 0 0 = true ∧ alu 0x8015 1 0 0 1 1 = true := by
  decide

/-- AL18, AL16. -/
theorem test_subnVxVy : alu 0x8017 3 10 0 7 1 = true ∧ alu 0x8017 1 0 1 255 0 = true := by decide

/-- AL21, AL22. -/
theorem test_shrVx : alu 0x8016 0xFF 9 0 0x7F 1 = true ∧ alu 0x8016 0xFE 9 1 0x7F 0 = true := by decide

/-- AL27, AL26: the bit test is proper, not a comparison with 0x80. -/
theorem test_shlVx : alu 0x801E 0xC1 9 0 0x82 1 = true ∧ alu 0x801E 0x7F 9 1 0xFE 0 = true := by decide

/-- AL34, AL33: VF as destination keeps the sum; VF as a source is read before its flag is written. -/
theorem test_addVxVy_flag_operand :
    answers (tickOn 0x8F14 (withV [(15, 200), (1, 100)] .reset)) (fun t => t.getV 15 == 44) = true ∧
    answers (tickOn 0x80F4 (withV [(0, 250), (15, 10)] .reset)) (fun t => t.getV 0 == 4 && t.getV 15 == 1) = true := by
  decide

/-- AL28, AL29. -/
theorem test_nop8 : alu 0x8018 0x12 0x34 0x55 0x12 0x55 = true ∧ alu 0x801F 0x12 0x34 0x55 0x12 0x55 = true := by
  decide

/-- DR16. -/
theorem test_cls : answers (tickOn 0x00E0 ((withV [(15, 7)] .reset).setFb (cells [(0, 0), (63, 31)])))
    (fun t => lit [] [(0, 0), (63, 31)] t && t.getV 15 == 7) = true := by decide

/-- DR1: the columns past 63 are clipped. DR14: out of bounds before anything is drawn. -/
theorem test_drw_edges :
    answers (tickOn 0xD011 ((withBytes 0x300 [0xFF] (withV [(0, 60)] .reset)).setI 0x300))
      (fun t => lit [(60, 0), (63, 0)] [(59, 0), (0, 0), (3, 1)] t && t.getV 15 == 0) = true ∧
    answers (tickOn 0xD013 ((withV [(15, 9)] .reset).setI 0xFFE))
      (fun t => haltedAt .memoryOutOfBounds 0x0FFE 0x200 t && lit [] [(0, 0), (7, 1)] t && t.getV 15 == 9) = true := by
  decide

/-- DR7 and DR9 in one: rows wrap, and a collision sets VF. -/
theorem test_drw_wraps_and_collides :
    answers (tickOn 0xD012 ((withBytes 0x300 [0x80, 0x80] (withV [(1, 255)] .reset)).setI 0x300))
      (fun t => lit [(0, 31), (0, 0)] [(1, 0), (0, 1)] t && t.getV 15 == 0) = true ∧
    answers (tickOn 0xD011 (((withBytes 0x300 [0x40] (withV [(0, 4), (1, 5)] .reset)).setI 0x300).setFb
      (cells [(5, 5)]))) (fun t => lit [] [(5, 5), (4, 5)] t && t.getV 15 == 1) = true := by decide

/-- KY6, KY2. -/
theorem test_skpVx :
    answers (step (withEvents [.tick 0x8000 0] ((withV [(2, 15)] .reset).placeWord 0xE29E)))
      (fun t => t.pc == 0x204) = true ∧
    answers (tickOn 0xE29E (withV [(2, 7)] .reset)) (fun t => t.pc == 0x202) = true := by decide

/-- KY5. -/
theorem test_skpVx_bounds : answers (tickOn 0xE29E (withV [(2, 16)] .reset))
    (haltedAt .keyIndexOutOfRange 0x0010 0x200) = true := by decide

/-- KY3, KY4. -/
theorem test_sknpVx :
    answers (step (withEvents [.tick 0x0080 0] ((withV [(2, 7)] .reset).placeWord 0xE2A1)))
      (fun t => t.pc == 0x202) = true ∧
    answers (step (withEvents [.tick 0xFF7F 0] ((withV [(2, 7)] .reset).placeWord 0xE2A1)))
      (fun t => t.pc == 0x204) = true := by decide

/-- KY7: keys held down do not satisfy the wait. -/
theorem test_ldVxK : answers (step (withEvents [.tick 0xFFFF 0] ((State.reset.setDelay 2).placeWord 0xF20A)))
    (fun t => t.runState == .waitKey && t.waitX == 2 && t.pc == 0x200 && t.delayTimer == 1) = true := by decide

/-- KY11: the wait's completion, into VF. -/
theorem test_ldVxK_completes :
    answers (step (withEvents [.keyEvent 0] ((withRun .waitKey 15 (withV [(15, 9)] .reset)).setDelay 1)))
      (fun t => t.getV 15 == 0 && t.runState == .running && t.waitX == 0 && t.pc == 0x202 && t.delayTimer == 1) =
      true := by decide

/-- FM2, TK3. -/
theorem test_ldVxDt : answers (tickOn 0xF107 (State.reset.setDelay 3))
    (fun t => t.delayTimer == 2 && t.getV 1 == 2) = true := by decide

/-- FM3. -/
theorem test_ldDtVx : answers (tickOn 0xF015 (State.reset.setDelay 9)) (fun t => t.delayTimer == 0) = true := by decide

/-- FM4. -/
theorem test_ldStVx : answers (tickOn 0xF518 (withV [(5, 0x10)] .reset))
    (fun t => t.soundTimer == 0x10 && t.delayTimer == 0) = true := by decide

/-- FM5, FM6. -/
theorem test_addIVx :
    answers (tickOn 0xF11E ((withV [(1, 5)] .reset).setI 0x0FFE)) (fun t => t.i == 0x1003 && t.getV 15 == 0) = true ∧
    answers (tickOn 0xF11E ((withV [(1, 2)] .reset).setI 0xFFFF)) (fun t => t.i == 0x0001) = true := by decide

/-- FM9, FM10: the whole byte. -/
theorem test_ldFVx : answers (tickOn 0xF029 (withV [(0, 0x1A)] .reset)) (fun t => t.i == 0x0082) = true ∧
    answers (tickOn 0xF029 (withV [(0, 0xFF)] .reset)) (fun t => t.i == 0x04FB) = true := by decide

/-- S10. -/
theorem test_ldBVx : answers (tickOn 0xF533 ((withV [(5, 234)] .reset).setI 0x300))
    (fun t => Memory.bytesAt t.mem 0x300 3 == [2, 3, 4] && t.i == 0x300) = true := by decide

/-- FM16. -/
theorem test_ldBVx_bounds : answers (tickOn 0xF033 ((withV [(0, 7)] .reset).setI 0xFFE))
    (fun t => haltedAt .memoryOutOfBounds 0x0FFE 0x200 t && Memory.bytesAt t.mem 0xFFE 2 == [0, 0]) = true := by
  decide

/-- S9, first half. -/
theorem test_ldMemVx :
    answers (tickOn 0xF355 ((withV [(0, 0xDE), (1, 0xAD), (2, 0xBE), (3, 0xEF), (4, 1)] .reset).setI 0x400))
      (fun t => Memory.bytesAt t.mem 0x400 5 == [0xDE, 0xAD, 0xBE, 0xEF, 0] && t.i == 0x404) = true := by decide

/-- FM18. -/
theorem test_ldMemVx_bounds : answers (tickOn 0xFF55 ((withV [(0, 1)] .reset).setI 0xFF1))
    (fun t => haltedAt .memoryOutOfBounds 0x0FF1 0x200 t && Memory.byteAt t.mem 0xFF1 == 0 && t.i == 0xFF1) = true := by
  decide

/-- FM20. -/
theorem test_ldVxMem :
    answers (tickOn 0xF265 ((withBytes 0x400 [0x11, 0x22, 0x33, 0x44] (withV [(3, 0x99)] .reset)).setI 0x400))
      (fun t => t.getV 0 == 0x11 && t.getV 1 == 0x22 && t.getV 2 == 0x33 && t.getV 3 == 0x99 && t.i == 0x403) =
      true := by decide

/-- FM21: glyph 0 of the font. -/
theorem test_ldVxMem_font : answers (tickOn 0xF465 .reset)
    (fun t => t.getV 0 == 0xF0 && t.getV 1 == 0x90 && t.getV 4 == 0xF0 && t.i == 0x005) = true := by decide

/-- FM23. -/
theorem test_nopF : answers (tickOn 0xF075 (withV [(0, 3)] .reset))
    (fun t => t.pc == 0x202 && t.getV 0 == 3 && t.i == 0) = true := by decide

/-! ### Reset and the fetch -/

/-- TK9: with nothing placed, the first step halts at 0x200. -/
theorem test_step_from_reset : answers (step .reset) (haltedAt .unrecognizedOpcode 0x0000 0x200) = true := by decide

/-- TK7. -/
theorem test_fetch_bound : answers (step (State.reset.setPc 0xFFF)) (haltedAt .memoryOutOfBounds 0x0FFF 0xFFF) =
    true := by decide

/-- TK8: an odd pc. -/
theorem test_fetch_odd : answers (step ((withBytes 0x201 [0x6B, 0x07] .reset).setPc 0x201))
    (fun t => t.getV 11 == 7 && t.pc == 0x203) = true := by decide

/-- `withFetchWord` places the word that the next step runs. -/
theorem test_withFetchWord : answers (step (State.reset.withFetchWord 16 0x6A01))
    (fun t => t.getV 10 == 1 && t.pc == 0x202) = true := by decide

/-- The image of P1 of 95_test_vectors.md lands at 0x200, and the font below 0x50. -/
theorem test_reset_image :
    answers (step (withEvents [.reset [0x60, 0x05, 0x12, 0x00]] (State.reset.setPc 0x333)))
      (fun t => Memory.bytesAt t.mem 0x200 5 == [0x60, 0x05, 0x12, 0x00, 0x00] && Memory.byteAt t.mem 0x4F == 0x80 &&
        t.pc == 0x200 && t.runState == .running) = true := by decide

/-! ### Witnesses: concrete inputs that meet the hypotheses of each obligation, clause by clause -/

/-- The running state whose next event is this Tick. -/
def ticked (keys : BitVec 16) (rnd : Byte) (s : State) : State := withEvents [.tick keys rnd] s

/-- `s` with the word `w` at `pc` and a Tick to come. -/
def loaded (w : Word) (s : State) : State := ticked 0 0 (s.placeWord w)

/-- A waiting block at an Fx0A word with x = 2, and a halted one. -/
def waiting : State := withRun .waitKey 2 (State.reset.placeWord 0xF20A)

/-- A halted block. -/
def halted : State := State.reset.halt .unrecognizedOpcode 0

theorem witness_reset_longest :
    (List.replicate 3584 (0 : Byte)).length ≤ 3584 ∧
      (withEvents [.reset (List.replicate 3584 0)] halted).events = .reset (List.replicate 3584 0) :: [] :=
  ⟨Nat.le_of_eq List.length_replicate, rfl⟩

theorem witness_reset_empty : (withEvents [.reset [], .tick 0 0] halted).events = .reset [] :: [.tick 0 0] := rfl

theorem witness_overlong :
    (List.replicate 3585 (0 : Byte)).length > 3584 ∧
      (withEvents [.reset (List.replicate 3585 0)] .reset).events = .reset (List.replicate 3585 0) :: [] :=
  ⟨Nat.lt_of_lt_of_eq (by decide) List.length_replicate.symm, rfl⟩

/-- `StepRunsTheDecodedInstruction` at the highest pc that can be fetched; TK5. -/
theorem witness_step :
    let s := ticked 5 7 ((withBytes 0xFFE [0x6A, 0x01] .reset).setPc 0xFFE)
    s.runState = .running ∧ s.nextEvent = .tick 5 7 ∧ s.pc.toNat ≤ 4094 ∧
      decode (wordOfBytes (Memory.byteAt s.mem s.pc.toNat) (Memory.byteAt s.mem (s.pc.toNat + 1))) =
        .instr (.ldVxKk 10 1) := by decide

theorem witness_step_no_events : State.reset.runState = .running ∧ State.reset.events = [] := by decide

theorem witness_fetch_in_bounds : (State.reset.setPc 4094).pc.toNat ≤ 4094 := by decide

theorem witness_fetch_out_of_bounds :
    let s := ticked 0 0 (State.reset.setPc 4095)
    s.runState = .running ∧ s.nextEvent = .tick 0 0 ∧ s.pc.toNat > 4094 := by decide

theorem witness_unrecognized :
    let s := ticked 0 0 .reset
    s.runState = .running ∧ s.nextEvent = .tick 0 0 ∧ s.fetchWord = some 0 ∧ decode 0 = .unrecognized 0 := by decide

/-- `TimersCountDownOncePerTick` on an instruction that writes no timer. -/
theorem witness_timers_other :
    let s := loaded 0x6005 ((State.reset.setDelay 0).setSound 255)
    s.runState = .running ∧ s.nextEvent = .tick 0 0 ∧ (∃ t, step s = .next t) ∧
      (∀ x, ¬ s.fetches (.ldDtVx x)) ∧ (∀ x, ¬ s.fetches (.ldStVx x)) := by
  refine ⟨by decide, by decide, ⟨_, rfl⟩, fun x h => ?_, fun x h => ?_⟩ <;>
    (have h' := (fetches_iff _ 0x6005 (.ldVxKk 0 5) _ (by decide) (by decide)).mp h; cases h')

theorem witness_timers_fx15 :
    let s := loaded 0xF315 (State.reset.setDelay 1)
    s.runState = .running ∧ s.nextEvent = .tick 0 0 ∧ (∃ t, step s = .next t) ∧ s.fetches (.ldDtVx 3) :=
  ⟨by decide, by decide, ⟨_, rfl⟩, 0xF315, by decide, by decide⟩

theorem witness_timers_fx18 :
    let s := loaded 0xF318 (State.reset.setSound 1)
    s.runState = .running ∧ s.nextEvent = .tick 0 0 ∧ (∃ t, step s = .next t) ∧ s.fetches (.ldStVx 3) :=
  ⟨by decide, by decide, ⟨_, rfl⟩, 0xF318, by decide, by decide⟩

theorem witness_timers_fx07 :
    let s := loaded 0xF307 (State.reset.setDelay 255)
    s.runState = .running ∧ s.nextEvent = .tick 0 0 ∧ (∃ t, step s = .next t) ∧ s.fetches (.ldVxDt 3) :=
  ⟨by decide, by decide, ⟨_, rfl⟩, 0xF307, by decide, by decide⟩

theorem witness_idle :
    (waiting.runState ≠ .running ∧ (ticked 1 2 waiting).nextEvent = .tick 1 2) ∧
      (halted.runState ≠ .running ∧ (ticked 1 2 halted).nextEvent = .tick 1 2) := by decide

theorem witness_keyEvent :
    ((withEvents [.keyEvent 15] waiting).nextEvent = .keyEvent 15 ∧
      (withEvents [.keyEvent 15] waiting).runState = .waitKey) ∧
    ((withEvents [.keyEvent 0] .reset).nextEvent = .keyEvent 0 ∧
      (withEvents [.keyEvent 0] .reset).runState ≠ .waitKey) ∧
    ((withEvents [.keyEvent 0] halted).nextEvent = .keyEvent 0 ∧
      (withEvents [.keyEvent 0] halted).runState ≠ .waitKey) := by decide

theorem witness_wait_outlasts :
    let s := withEvents [.tick 1 0, .tick 0 9, .keyEvent 7, .tick 0 0] waiting
    s.runState = .waitKey ∧ s.events = [.tick 1 0, .tick 0 9] ++ .keyEvent 7 :: [.tick 0 0] ∧
      ∀ e ∈ [HostEvent.tick 1 0, .tick 0 9], e.isTick = true := by decide

theorem witness_halted : halted.runState = .halted ∧ ∀ image, HostEvent.reset image ∉ halted.events :=
  ⟨rfl, fun _ h => nomatch h⟩

theorem witness_runState_halted :
    let s := withEvents [.reset []] halted
    ∃ t, step s = .next t ∧ s.runState = .halted ∧ t.runState ≠ .halted ∧ s.nextEvent = .reset [] :=
  ⟨_, rfl, by decide⟩

theorem witness_runState_waitKey :
    (∃ t, step (withEvents [.keyEvent 3] waiting) = .next t ∧ waiting.runState = .waitKey ∧ t.runState ≠ .waitKey) ∧
    (∃ t, step (withEvents [.reset []] waiting) = .next t ∧ t.runState ≠ .waitKey) :=
  ⟨⟨_, rfl, by decide⟩, ⟨_, rfl, by decide⟩⟩

theorem witness_runState_running :
    (loaded 0xF20A .reset).runState ≠ .waitKey ∧ (∃ t, step (loaded 0xF20A .reset) = .next t ∧ t.runState = .waitKey) ∧
    (∃ t, step (loaded 0x00EE .reset) = .next t ∧ t.runState ≠ .running) :=
  ⟨by decide, ⟨_, rfl, by decide⟩, ⟨_, rfl, by decide⟩⟩

theorem witness_earlier_inputs :
    (ticked 1 2 .reset).runState = .running ∧ (ticked 1 2 .reset).nextEvent = .tick 1 2 := by decide

/-- `EveryInstructionAndStepAnswers`: a Tick next, and the longest image. -/
theorem witness_step_answers :
    (∀ image, (ticked 0 0 .reset).nextEvent = .reset image → image.length ≤ 3584) ∧
    (∀ image, (withEvents [.reset (List.replicate 3584 0)] .reset).nextEvent = .reset image →
      image.length ≤ 3584) := by
  constructor
  · intro image h
    cases h
  · intro image h
    injection h with h
    rw [← h, List.length_replicate]

theorem witness_memory_canonical :
    let s := loaded 0xF033 ((withV [(0, 234)] (withBytes 0x300 [1, 0, 3] .reset)).setI 0x300)
    s.memOk ∧ ∃ t, step s = .next t := ⟨by decide, _, rfl⟩

theorem witness_statusOk :
    (waiting.statusOk ∧ ∃ t, step (ticked 0 0 waiting) = .next t) ∧
    (halted.statusOk ∧ ∃ t, step (ticked 0 0 halted) = .next t) ∧
    (State.reset.statusOk ∧ ∃ t, step (loaded 0xF20A .reset) = .next t) :=
  ⟨⟨by decide, _, rfl⟩, ⟨by decide, _, rfl⟩, by decide, _, rfl⟩

theorem witness_waitOk : waiting.waitOk ∧ waiting.runState = .waitKey ∧ ∃ t, step (ticked 0 0 waiting) = .next t :=
  ⟨by decide, by decide, _, rfl⟩

/-- `PcAndSavedPcsStayBounded` at both bounds: pc = 0x10FE, and 4094 saved in the top slot. -/
theorem witness_pcOk :
    (ticked 0 0 (State.reset.setPc 0x10FE)).pcOk ∧ (∃ t, step (ticked 0 0 (State.reset.setPc 0x10FE)) = .next t) ∧
    (loaded 0x00EE (withStack 15 4094 .reset)).pcOk ∧
      (∃ t, step (loaded 0x00EE (withStack 15 4094 .reset)) = .next t) := by
  refine ⟨⟨by decide, by decide, ?_⟩, ⟨_, rfl⟩, ⟨by decide, by decide, fun k _ => ?_⟩, _, rfl⟩
  · rintro k ⟨top, h, -⟩
    cases h
  · revert k
    decide

theorem witness_encode :
    (Instr.nopF 15 0xFF).wellFormed = true ∧ (Instr.nop8 15 15 8).wellFormed = true ∧
      (Instr.jp 0xFFF).wellFormed = true := by decide

theorem witness_decode : decode 0xDFF0 = .instr (.drw 15 15 0) := by decide

theorem witness_call :
    State.reset.level < 15 ∧ (withStack 14 0 .reset).level < 15 ∧ (withStack 15 0 .reset).level = 15 := by decide

theorem witness_ret :
    (withStack 0 0x250 .reset).stackLevel = some 0 ∧ (withStack 15 0x250 .reset).stackLevel = some 15 ∧
      State.reset.level = -1 := by decide

theorem witness_return_resumes :
    State.reset.level < 15 ∧ ∃ t, exec (.call 0x300) .reset = .next t ∧ SameStack t (t.setPc 0x444) :=
  ⟨by decide, _, rfl, rfl, fun _ => rfl⟩

/-- `PcMovesOnlyAsListed`: one instruction for each of its cases. -/
theorem witness_pcMoves :
    (∃ t, exec (.nopF 0 0) .reset = .next t ∧ t.safe) ∧ (∃ t, exec (.seVxKk 0 0) .reset = .next t ∧ t.safe) ∧
    (∃ t, exec (.jp 0xFFF) .reset = .next t ∧ t.safe) ∧ (∃ t, exec (.jpV0 0xFFF) .reset = .next t ∧ t.safe) ∧
    (∃ t, exec .ret (withStack 0 0x250 .reset) = .next t ∧ t.safe) ∧
    (∃ t, exec (.ldVxK 3) .reset = .next t ∧ t.safe) ∧ State.reset.safe ∧ (withStack 0 0x250 .reset).safe :=
  ⟨⟨_, rfl, by decide⟩, ⟨_, rfl, by decide⟩, ⟨_, rfl, by decide⟩, ⟨_, rfl, by decide⟩, ⟨_, rfl, by decide⟩,
    ⟨_, rfl, by decide⟩, by decide, by decide⟩

/-- `ClearTurnsEveryCellOff`: a cell turned off by CLS, and one by DRW. -/
theorem witness_cell_turned_off :
    (∃ t, exec .cls (State.reset.setFb (cells [(5, 5)])) = .next t ∧
      (State.reset.setFb (cells [(5, 5)])).fb.cell 5 5 = true ∧ t.fb.cell 5 5 = false) ∧
    (let s := (((withBytes 0x300 [0x80] (withV [(0, 5), (1, 5)] .reset)).setI 0x300).setFb (cells [(5, 5)]))
    ∃ t, exec (.drw 0 1 1) s = .next t ∧ s.fb.cell 5 5 = true ∧ t.fb.cell 5 5 = false) :=
  ⟨⟨_, rfl, by decide, by decide⟩, _, rfl, by decide, by decide⟩

/-- `DrawTogglesTheCoveredCells`: no rows at all, the last row at 4095, and one row past it. -/
theorem witness_draw :
    ((0 : Nibble) = 0 ∨ (State.reset.setI 0xFFFF).i.toNat + (0 : Nibble).toNat - 1 ≤ 4095) ∧
    ((2 : Nibble) = 0 ∨ (State.reset.setI 0xFFE).i.toNat + (2 : Nibble).toNat - 1 ≤ 4095) ∧
    ((3 : Nibble) ≠ 0 ∧ (State.reset.setI 0xFFE).i.toNat + (3 : Nibble).toNat - 1 > 4095) := by decide

/-- `DrawingTwiceRestoresTheGrid`: S7, and a draw that names VF. -/
theorem witness_draw_twice :
    (let s := (withBytes 0x300 [0xFF] (withV [(0, 8), (1, 4)] .reset)).setI 0x300
    ((1 : Nibble) = 0 ∨ s.i.toNat + (1 : Nibble).toNat - 1 ≤ 4095) ∧
      ∃ t u, exec (.drw 0 1 1) s = .next t ∧ t.getV 0 = s.getV 0 ∧ t.getV 1 = s.getV 1 ∧
        exec (.drw 0 1 1) t = .next u) ∧
    (let s := (withBytes 0x300 [0xFF] .reset).setI 0x300
    ∃ t u, exec (.drw 15 1 1) s = .next t ∧ t.getV 15 = s.getV 15 ∧ t.getV 1 = s.getV 1 ∧
      exec (.drw 15 1 1) t = .next u) :=
  ⟨⟨by decide, _, _, rfl, by decide, by decide, rfl⟩, _, _, rfl, by decide, by decide, rfl⟩

theorem witness_key_skips :
    ((withV [(3, 15)] .reset).getV 3).toNat ≤ 15 ∧ ((withV [(3, 16)] .reset).getV 3).toNat > 15 := by decide

theorem witness_digits :
    ((State.reset.setI 4093).i.toNat + 2 ≤ 4095 ∧ (State.reset.setI 4093).memOk) ∧
      (State.reset.setI 4094).i.toNat + 2 > 4095 := by decide

/-- `RegistersAreDumped` and `RegistersAreLoaded` at their bounds, and a register inside the range. -/
theorem witness_dump_load :
    ((State.reset.setI 4080).i.toNat + (15 : Nibble).toNat ≤ 4095 ∧ (State.reset.setI 4080).memOk ∧
      (15 : Nibble).toNat ≤ (15 : Nibble).toNat) ∧
    (State.reset.setI 4081).i.toNat + (15 : Nibble).toNat > 4095 ∧
    (State.reset.setI 4096).i.toNat + (0 : Nibble).toNat > 4095 := by decide

theorem witness_dump_then_load :
    let s := (withV [(0, 0xDE), (3, 0xEF)] .reset).setI 0x400
    s.memOk ∧ s.i.toNat + (3 : Nibble).toNat ≤ 4095 ∧ (3 : Nibble).toNat ≤ (3 : Nibble).toNat ∧
      ∃ t, exec (.ldMemVx 3) s = .next t ∧ SameMem t (t.setI 0x400) ∧ (t.setI 0x400).i = s.i :=
  ⟨by decide, by decide, by decide, _, rfl, fun _ => rfl, rfl⟩

theorem witness_stored_words_dump :
    let s := (withV [(0, 0x12), (1, 0x08)] .reset).setI 4094
    s.memOk ∧ s.i.toNat + (1 : Nibble).toNat ≤ 4095 ∧ (0 : Nibble).toNat < (1 : Nibble).toNat ∧
      ∃ t, exec (.ldMemVx 1) s = .next t := ⟨by decide, by decide, by decide, _, rfl⟩

theorem witness_stored_words_digits :
    let s := (withV [(1, 255)] .reset).setI 4093
    s.memOk ∧ s.i.toNat + 2 ≤ 4095 ∧ ∃ t, exec (.ldBVx 1) s = .next t := ⟨by decide, by decide, _, rfl⟩

/-- `FaultsArePreciseAndListed`: each fault an instruction can raise. -/
theorem witness_faults :
    State.reset.safe ∧ (withStack 15 0 .reset).safe ∧
    (∃ t, exec (.call 0x300) (withStack 15 0 .reset) = .next t ∧ t.runState = .halted) ∧
    (∃ t, exec .ret .reset = .next t ∧ t.runState = .halted) ∧
    (∃ t, exec (.drw 0 1 1) (State.reset.setI 4096) = .next t ∧ t.runState = .halted) ∧
    (∃ t, exec (.ldBVx 0) (State.reset.setI 4094) = .next t ∧ t.runState = .halted) ∧
    (∃ t, exec (.ldMemVx 0) (State.reset.setI 4096) = .next t ∧ t.runState = .halted) ∧
    (∃ t, exec (.ldVxMem 0) (State.reset.setI 4096) = .next t ∧ t.runState = .halted) ∧
    (∃ t, exec (.skpVx 0) (withV [(0, 16)] .reset) = .next t ∧ t.runState = .halted) ∧
    (∃ t, exec (.sknpVx 0) (withV [(0, 16)] .reset) = .next t ∧ t.runState = .halted) :=
  ⟨by decide, by decide, ⟨_, rfl, by decide⟩, ⟨_, rfl, by decide⟩, ⟨_, rfl, by decide⟩, ⟨_, rfl, by decide⟩,
    ⟨_, rfl, by decide⟩, ⟨_, rfl, by decide⟩, ⟨_, rfl, by decide⟩, ⟨_, rfl, by decide⟩⟩

/-- `RegistersChangeOnlyWhereNamed`: a named destination, and VF as a side effect. -/
theorem witness_registers_change :
    (∃ t, exec (.ldVxKk 3 9) .reset = .next t ∧ t.getV 3 ≠ State.reset.getV 3) ∧
    (∃ t, exec (.shrVx 3 0) (withV [(3, 1)] .reset) = .next t ∧ t.getV 15 ≠ (withV [(3, 1)] .reset).getV 15) :=
  ⟨⟨_, rfl, by decide⟩, ⟨_, rfl, by decide⟩⟩

/-- `OtherStateChangesOnlyByItsInstructions`: an instruction that stores nothing and touches neither stack nor grid,
and one that changes each of the remaining pieces of state. -/
theorem witness_other_state :
    (∃ t, exec (.nopF 0 0) .reset = .next t ∧ (Instr.nopF 0 0).storesToMemory = false) ∧
    (∃ t, exec (.ldINnn 5) .reset = .next t ∧ t.i ≠ State.reset.i) ∧
    (∃ t, exec (.ldDtVx 0) (withV [(0, 7)] .reset) = .next t ∧ t.delayTimer ≠ (withV [(0, 7)] .reset).delayTimer) ∧
    (∃ t, exec (.ldStVx 0) (withV [(0, 7)] .reset) = .next t ∧ t.soundTimer ≠ (withV [(0, 7)] .reset).soundTimer) ∧
    (∃ t, exec (.ldVxK 2) .reset = .next t ∧ t.waitX ≠ State.reset.waitX) :=
  ⟨⟨_, rfl, rfl⟩, ⟨_, rfl, by decide⟩, ⟨_, rfl, by decide⟩, ⟨_, rfl, by decide⟩, ⟨_, rfl, by decide⟩⟩

/-- `InputsAreReadOnlyByTheirInstructions`: an instruction for each clause. -/
theorem witness_inputs :
    (∃ t, exec (.rndVxKk 0 0xFF) .reset = .next t ∧
      ∀ x, Instr.rndVxKk 0 0xFF ≠ .skpVx x ∧ Instr.rndVxKk 0 0xFF ≠ .sknpVx x) ∧
    (∃ t, exec (.skpVx 0) .reset = .next t ∧ ∀ x kk, Instr.skpVx 0 ≠ .rndVxKk x kk) :=
  ⟨⟨_, rfl, fun _ => ⟨by simp, by simp⟩⟩, ⟨_, rfl, fun _ _ => by simp⟩⟩

/-- `TickBringsTheInputsItsInstructionReads`: the highest key index for each key skip, and a masked random byte. -/
theorem witness_tick_inputs_skp :
    let s := ticked 0x8000 0 ((withV [(2, 15)] .reset).placeWord 0xE29E)
    s.runState = .running ∧ s.nextEvent = .tick 0x8000 0 ∧ s.fetches (.skpVx 2) ∧ (s.getV 2).toNat ≤ 15 :=
  ⟨by decide, by decide, ⟨0xE29E, by decide, by decide⟩, by decide⟩

theorem witness_tick_inputs_sknp :
    let s := ticked 0x8000 0 ((withV [(2, 15)] .reset).placeWord 0xE2A1)
    s.runState = .running ∧ s.nextEvent = .tick 0x8000 0 ∧ s.fetches (.sknpVx 2) ∧ (s.getV 2).toNat ≤ 15 :=
  ⟨by decide, by decide, ⟨0xE2A1, by decide, by decide⟩, by decide⟩

theorem witness_tick_inputs_rnd :
    let s := ticked 0 0xB7 (State.reset.placeWord 0xC30F)
    s.runState = .running ∧ s.nextEvent = .tick 0 0xB7 ∧ s.fetches (.rndVxKk 3 0x0F) :=
  ⟨by decide, by decide, 0xC30F, by decide, by decide⟩

end Sys2Proof.Tests
end

section
/-! SUPPORT. Which Tick an instruction belongs to: what the prepared state holds, a step that fetches an instruction as
`exec` of it, and the three instructions that read a Tick's inputs. -/

namespace Sys2Proof.Machine

/-! ### The prepared state, field by field -/

@[simp] theorem prepared_mem (s : State) (keys : BitVec 16) (rnd : Byte) : (s.prepared keys rnd).mem = s.mem := rfl
@[simp] theorem prepared_v (s : State) (keys : BitVec 16) (rnd : Byte) : (s.prepared keys rnd).v = s.v := rfl
@[simp] theorem prepared_i (s : State) (keys : BitVec 16) (rnd : Byte) : (s.prepared keys rnd).i = s.i := rfl
@[simp] theorem prepared_pc (s : State) (keys : BitVec 16) (rnd : Byte) : (s.prepared keys rnd).pc = s.pc := rfl
@[simp] theorem prepared_stack (s : State) (keys : BitVec 16) (rnd : Byte) :
    (s.prepared keys rnd).stack = s.stack := rfl
@[simp] theorem prepared_stackLevel (s : State) (keys : BitVec 16) (rnd : Byte) :
    (s.prepared keys rnd).stackLevel = s.stackLevel := rfl
@[simp] theorem prepared_delayTimer (s : State) (keys : BitVec 16) (rnd : Byte) :
    (s.prepared keys rnd).delayTimer = countdown s.delayTimer := rfl
@[simp] theorem prepared_soundTimer (s : State) (keys : BitVec 16) (rnd : Byte) :
    (s.prepared keys rnd).soundTimer = countdown s.soundTimer := rfl
@[simp] theorem prepared_fb (s : State) (keys : BitVec 16) (rnd : Byte) : (s.prepared keys rnd).fb = s.fb := rfl
@[simp] theorem prepared_runState (s : State) (keys : BitVec 16) (rnd : Byte) :
    (s.prepared keys rnd).runState = s.runState := rfl
@[simp] theorem prepared_waitX (s : State) (keys : BitVec 16) (rnd : Byte) :
    (s.prepared keys rnd).waitX = s.waitX := rfl
@[simp] theorem prepared_faultCode (s : State) (keys : BitVec 16) (rnd : Byte) :
    (s.prepared keys rnd).faultCode = s.faultCode := rfl
@[simp] theorem prepared_faultInfo (s : State) (keys : BitVec 16) (rnd : Byte) :
    (s.prepared keys rnd).faultInfo = s.faultInfo := rfl
@[simp] theorem prepared_tickKeys (s : State) (keys : BitVec 16) (rnd : Byte) :
    (s.prepared keys rnd).tickKeys = keys := rfl
@[simp] theorem prepared_tickRnd (s : State) (keys : BitVec 16) (rnd : Byte) :
    (s.prepared keys rnd).tickRnd = rnd := rfl
@[simp] theorem prepared_events (s : State) (keys : BitVec 16) (rnd : Byte) :
    (s.prepared keys rnd).events = s.events.tail := rfl
@[simp] theorem prepared_eventIndex (s : State) (keys : BitVec 16) (rnd : Byte) :
    (s.prepared keys rnd).eventIndex = s.eventIndex + 1 := rfl
@[simp] theorem prepared_getV (s : State) (keys : BitVec 16) (rnd : Byte) (k : Nibble) :
    (s.prepared keys rnd).getV k = s.getV k := rfl
@[simp] theorem prepared_key (s : State) (keys : BitVec 16) (rnd : Byte) (k : Nat) :
    (s.prepared keys rnd).key k = keys.getLsbD k := rfl
@[simp] theorem prepared_rand (s : State) (keys : BitVec 16) (rnd : Byte) : (s.prepared keys rnd).rand = rnd := rfl

/-- The countdown is the subtraction of naturals, which stops at 0 (R91). -/
@[simp] theorem countdown_toNat (b : Byte) : (countdown b).toNat = b.toNat - 1 := by
  unfold countdown
  split
  · next h => exact BitVec.toNat_sub_of_le (BitVec.le_def.mpr h)
  · next h => omega

/-! ### The step of a running block -/

/-- A running block with no event listed is given the Tick with free inputs. -/
theorem nextEvent_running_of_nil (s : State) (hr : s.runState = .running) (he : s.events = []) :
    s.nextEvent = s.freeTick := by
  simp only [State.nextEvent, he, State.freeEvent, hr]

/-- `fetches` says that `pc` is at most 4094 and the big-endian word there decodes to `i` (R92, R93). -/
theorem fetches_iff_decode (s : State) (i : Instr) :
    s.fetches i ↔ s.pc.toNat ≤ 4094 ∧
      decode (wordOfBytes (Memory.byteAt s.mem s.pc.toNat) (Memory.byteAt s.mem (s.pc.toNat + 1))) = .instr i := by
  simp only [State.fetches, fetchWord_eq_some]
  constructor
  · rintro ⟨w, ⟨hpc, rfl⟩, hd⟩; exact ⟨hpc, hd⟩
  · rintro ⟨hpc, hd⟩; exact ⟨_, ⟨hpc, rfl⟩, hd⟩

/-- Fetch, decode, execute, where the word at `pc` is an instruction. -/
theorem fetchExecute_of_fetches (s : State) (i : Instr) (hf : s.fetches i) : fetchExecute s = exec i s := by
  obtain ⟨w, hw, hd⟩ := hf
  simp only [fetchExecute, hw, hd]

/-- Preparing a state does not change what it fetches. -/
@[simp] theorem prepared_fetches (s : State) (keys : BitVec 16) (rnd : Byte) (i : Instr) :
    (s.prepared keys rnd).fetches i ↔ s.fetches i := Iff.rfl

/-- A Tick in RUNNING executes the instruction it fetches on the prepared state (R90). -/
theorem step_of_fetches (s : State) (keys : BitVec 16) (rnd : Byte) (i : Instr) (hr : s.runState = .running)
    (he : s.nextEvent = .tick keys rnd) (hf : s.fetches i) : step s = exec i (s.prepared keys rnd) := by
  rw [step_running_tick s keys rnd hr he]
  exact fetchExecute_of_fetches _ i ((prepared_fetches s keys rnd i).mpr hf)

/-! ### The instructions that read the inputs of the Tick -/

/-- Ex9E with an index of a key skips on that key (R181). -/
theorem exec_skpVx_of_le (s : State) (x : Nibble) (h : (s.getV x).toNat ≤ 15) :
    exec (.skpVx x) s = .next (s.skipIf (s.key (s.getV x).toNat)) :=
  if_neg (Nat.not_lt.mpr h)

/-- ExA1 with an index of a key skips on that key being up (R182). -/
theorem exec_sknpVx_of_le (s : State) (x : Nibble) (h : (s.getV x).toNat ≤ 15) :
    exec (.sknpVx x) s = .next (s.skipIf (!s.key (s.getV x).toNat)) :=
  if_neg (Nat.not_lt.mpr h)

/-- Cxkk writes the masked random byte and moves on (R133). -/
theorem exec_rndVxKk (s : State) (x : Nibble) (kk : Byte) :
    exec (.rndVxKk x kk) s = .next (s.setV x (s.rand &&& kk)).advance := rfl

/-! ### The obligations -/

/-- Settles O3: `step_of_fetches`, the Tick that is free, and the fields of the prepared state. -/
theorem stepRunsTheDecodedInstruction : Obligations.StepRunsTheDecodedInstruction := by
  refine ⟨?step, ?freeTick, ?prepared⟩
  case step =>
    intro s keys rnd i hr he hpc hd
    exact step_of_fetches s keys rnd i hr he ((fetches_iff_decode s i).mpr ⟨hpc, hd⟩)
  case freeTick =>
    intro s hr he
    exact ⟨_, _, nextEvent_running_of_nil s hr he⟩
  case prepared =>
    intro s keys rnd
    simp [SameRegs, SameMem, SameStack, SameGrid, SameStatus]

/-- Settles O52: the step is the instruction on the prepared state, which holds the inputs of this very Tick. -/
theorem tickBringsTheInputsItsInstructionReads : Obligations.TickBringsTheInputsItsInstructionReads := by
  intro s keys rnd hr he
  refine ⟨?skp, ?sknp, ?rnd⟩
  case skp =>
    intro x hf hx
    have hstep := (step_of_fetches s keys rnd _ hr he hf).trans (exec_skpVx_of_le (s.prepared keys rnd) x hx)
    exact ⟨_, hstep, by simp⟩
  case sknp =>
    intro x hf hx
    have hstep := (step_of_fetches s keys rnd _ hr he hf).trans (exec_sknpVx_of_le (s.prepared keys rnd) x hx)
    refine ⟨_, hstep, ?_⟩
    cases hk : keys.getLsbD (s.getV x).toNat <;> simp [hk]
  case rnd =>
    intro x kk hf
    have hstep := (step_of_fetches s keys rnd _ hr he hf).trans (exec_rndVxKk (s.prepared keys rnd) x kk)
    exact ⟨_, hstep, by simp, fun j => by simp⟩

end Sys2Proof.Machine
end

section
/-! SUPPORT. What an instruction can make of a state and what a step can make of the run state, each said once as a
relation with one constructor per kind of change; and the statements about the state that follow from them. -/

namespace Sys2Proof.Machine

/-! ### The effect of an instruction -/

/-- `InstrEffect s i t`: `t` is one of the states that the instruction `i` can make of `s`. One constructor per kind of
change, not one per instruction; `exec_effect` ties it to `exec`. -/
inductive InstrEffect (s : State) : Instr → State → Prop
  /-- A fault (R212). -/
  | halts {i : Instr} (f : FaultCode) (info : Word) (hf : f ≠ .noFault) : InstrEffect s i (s.halt f info)
  /-- The no-ops (R151, R199). -/
  | advances {i : Instr} : InstrEffect s i s.advance
  /-- The skips (R120 to R123, R181, R182). -/
  | skips {i : Instr} (c : Bool) : InstrEffect s i (s.skipIf c)
  | jumps (nnn : Addr) : InstrEffect s (.jp nnn) (s.setPc (addrOperand nnn))
  | jumpsIndexed (nnn : Addr) : InstrEffect s (.jpV0 nnn) (s.setPc (indexedTarget s nnn))
  | returns (k : Fin 16) (hk : s.stackLevel = some k) :
      InstrEffect s .ret ((s.popFrom k).setPc (s.stack[k.val] + 2))
  | calls (nnn : Addr) (k : Fin 16) (hk : nextSlot s.stackLevel = some k) :
      InstrEffect s (.call nnn) ((s.pushAt k s.pc).setPc (addrOperand nnn))
  /-- Fx0A, part 1 (R183). -/
  | suspends (x : Nibble) : InstrEffect s (.ldVxK x) (s.suspend x)
  /-- A destination register alone. -/
  | writes {i : Instr} (x : Nibble) (b : Byte) (hx : i.writesReg x = true) : InstrEffect s i (s.setV x b).advance
  /-- A destination register after the flag (R141). -/
  | writesWithFlag {i : Instr} (x : Nibble) (c : Bool) (b : Byte) (hx : i.writesReg x = true)
      (hi : i.writesFlag = true) : InstrEffect s i (s.writeFlagged x (flagByte c) b).advance
  /-- Fx65 (R198): registers above `x` keep their values. -/
  | loads (x : Nibble) (v : Vector Byte 16) (a : Word)
      (hv : ∀ k : Nibble, x.toNat < k.toNat → State.getV { s with v := v } k = s.getV k) :
      InstrEffect s (.ldVxMem x) (State.setI { s with v := v } a).advance
  | clears : InstrEffect s .cls (s.setFb FrameBuffer.blank).advance
  | draws (x y n : Nibble) (f : FrameBuffer) (c : Bool) :
      InstrEffect s (.drw x y n) ((s.setFb f).setV vf (flagByte c)).advance
  | setsDelay (x : Nibble) : InstrEffect s (.ldDtVx x) (s.setDelay (s.getV x)).advance
  | setsSound (x : Nibble) : InstrEffect s (.ldStVx x) (s.setSound (s.getV x)).advance
  /-- Annn, Fx1E and Fx29 (R132, R194, R195). -/
  | setsIndex {i : Instr} (a : Word) (hi : (∃ nnn, i = .ldINnn nnn) ∨ ∃ x, i = .addIVx x ∨ i = .ldFVx x) :
      InstrEffect s i (s.setI a).advance
  /-- Fx33 (R196). -/
  | storesDigits (x : Nibble) (m : Memory) : InstrEffect s (.ldBVx x) (s.setMem m).advance
  /-- Fx55 (R197). -/
  | dumps (x : Nibble) (m : Memory) (a : Word) : InstrEffect s (.ldMemVx x) ((s.setMem m).setI a).advance

/-- Fx65 within bounds, as an effect. -/
theorem effect_loadRegs (s : State) (x : Nibble) (a : Word) :
    InstrEffect s (.ldVxMem x) ((s.loadRegs s.base (regCount x)).setI a).advance := by
  obtain ⟨v, hv⟩ := loadRegs_eq s s.base (regCount x)
  have hreg := loadRegs_getV s s.base (regCount x) x.isLt
  rw [hv] at hreg ⊢
  refine .loads x v a fun k hk => ?_
  rw [hreg, if_neg (by unfold regCount; omega)]

/-- Every instruction answers a next state, and that state is one of its effects. -/
theorem exec_answers_effect (i : Instr) (s : State) : ∃ t, exec i s = .next t ∧ InstrEffect s i t := by
  cases i with
  | cls => exact ⟨_, rfl, .clears⟩
  | ret =>
    simp only [exec, execRet]
    split
    · exact ⟨_, rfl, .halts _ _ nofun⟩
    · next k hk => exact ⟨_, rfl, .returns k hk⟩
  | call nnn =>
    simp only [exec, execCall]
    split
    · exact ⟨_, rfl, .halts _ _ nofun⟩
    · next k hk => exact ⟨_, rfl, .calls nnn k hk⟩
  | jp nnn => exact ⟨_, rfl, .jumps nnn⟩
  | jpV0 nnn => exact ⟨_, rfl, .jumpsIndexed nnn⟩
  | seVxVy | sneVxVy | seVxKk | sneVxKk => exact ⟨_, rfl, .skips _⟩
  | skpVx x =>
    simp only [exec, execSkpVx]
    split
    · exact ⟨_, rfl, .halts _ _ nofun⟩
    · exact ⟨_, rfl, .skips _⟩
  | sknpVx x =>
    simp only [exec, execSknpVx]
    split
    · exact ⟨_, rfl, .halts _ _ nofun⟩
    · exact ⟨_, rfl, .skips _⟩
  | ldVxVy x | orVxVy x | andVxVy x | xorVxVy x | ldVxKk x | addVxKk x | rndVxKk x | ldVxDt x =>
    exact ⟨_, rfl, .writes x _ (beq_self_eq_true x)⟩
  | addVxVy x | subVxVy x | shrVx x | subnVxVy x | shlVx x =>
    exact ⟨_, rfl, .writesWithFlag x _ _ (beq_self_eq_true x) rfl⟩
  | nop8 | nopF => exact ⟨_, rfl, .advances⟩
  | ldVxK x => exact ⟨_, rfl, .suspends x⟩
  | ldDtVx x => exact ⟨_, rfl, .setsDelay x⟩
  | ldStVx x => exact ⟨_, rfl, .setsSound x⟩
  | ldINnn nnn => exact ⟨_, rfl, .setsIndex _ (.inl ⟨nnn, rfl⟩)⟩
  | addIVx x => exact ⟨_, rfl, .setsIndex _ (.inr ⟨x, .inl rfl⟩)⟩
  | ldFVx x => exact ⟨_, rfl, .setsIndex _ (.inr ⟨x, .inr rfl⟩)⟩
  | ldBVx x =>
    simp only [exec, execLdBVx]
    split
    · exact ⟨_, rfl, .storesDigits x _⟩
    · exact ⟨_, rfl, .halts _ _ nofun⟩
  | ldMemVx x =>
    simp only [exec, execLdMemVx]
    split
    · exact ⟨_, rfl, .dumps x _ _⟩
    · exact ⟨_, rfl, .halts _ _ nofun⟩
  | ldVxMem x =>
    simp only [exec, execLdVxMem]
    split
    · exact ⟨_, rfl, effect_loadRegs s x _⟩
    · exact ⟨_, rfl, .halts _ _ nofun⟩
  | drw x y n =>
    simp only [exec, execDrw]
    split
    · exact ⟨_, rfl, .draws x y n _ _⟩
    · exact ⟨_, rfl, .halts _ _ nofun⟩

/-- What an instruction answers is one of its effects. -/
theorem exec_effect {i : Instr} {s t : State} (h : exec i s = .next t) : InstrEffect s i t := by
  obtain ⟨u, hu, heff⟩ := exec_answers_effect i s
  obtain rfl : u = t := by simpa [hu] using h
  exact heff

/-! ### What each piece of state can have become -/

theorem advance_getV (s : State) (k : Nibble) : s.advance.getV k = s.getV k := rfl

theorem flagByte_eq_zero_or_one (c : Bool) : flagByte c = 0 ∨ flagByte c = 1 := by
  cases c
  · exact .inl rfl
  · exact .inr rfl

/-- A register keeps its value, or the instruction names it as a destination, or it is VF with a flag in it. -/
theorem InstrEffect.getV_cases {s t : State} {i : Instr} (h : InstrEffect s i t) (k : Nibble) :
    t.getV k = s.getV k ∨ i.writesReg k = true ∨ (k = vf ∧ i.writesFlag = true ∧ ∃ c, t.getV k = flagByte c) := by
  cases h
  case writes x b hx =>
    by_cases hk : k = x
    · exact .inr (.inl (hk ▸ hx))
    · exact .inl (by simp [hk])
  case writesWithFlag x c b hx hi =>
    by_cases hk : k = x
    · exact .inr (.inl (hk ▸ hx))
    · by_cases hf : k = vf
      · exact .inr (.inr ⟨hf, hi, c, by rw [advance_getV, writeFlagged_getV, if_neg hk, if_pos hf]⟩)
      · exact .inl (by rw [advance_getV, writeFlagged_getV, if_neg hk, if_neg hf])
  case loads x v a hv =>
    by_cases hk : k.toNat ≤ x.toNat
    · exact .inr (.inl (by simpa [Instr.writesReg] using hk))
    · exact .inl (hv k (by omega))
  case draws x y n f c =>
    by_cases hf : k = vf
    · exact .inr (.inr ⟨hf, rfl, c, hf ▸ getV_setV_self _ vf _⟩)
    · exact .inl (getV_setV_ne _ vf k _ hf)
  all_goals exact .inl rfl

theorem InstrEffect.mem_eq {s t : State} {i : Instr} (h : InstrEffect s i t) (hi : i.storesToMemory = false) :
    t.mem = s.mem := by
  cases h
  case storesDigits => cases hi
  case dumps => cases hi
  all_goals rfl

/-- The call stack stays, or RET lowers the level from a slot, or CALL writes its address to the next slot. -/
theorem InstrEffect.stack_cases {s t : State} {i : Instr} (h : InstrEffect s i t) :
    (t.stack = s.stack ∧ t.stackLevel = s.stackLevel) ∨
    (i = .ret ∧ ∃ k, s.stackLevel = some k ∧ t.stack = s.stack ∧ t.stackLevel = lowerLevel k) ∨
    (∃ nnn k, i = .call nnn ∧ nextSlot s.stackLevel = some k ∧ t.stack = s.stack.set k.val s.pc k.isLt ∧
      t.stackLevel = some k) := by
  cases h
  case returns k hk => exact .inr (.inl ⟨rfl, k, hk, rfl, rfl⟩)
  case calls nnn k hk => exact .inr (.inr ⟨nnn, k, rfl, hk, rfl, rfl⟩)
  all_goals exact .inl ⟨rfl, rfl⟩

theorem InstrEffect.fb_eq {s t : State} {i : Instr} (h : InstrEffect s i t) (hcls : i ≠ .cls)
    (hdrw : ∀ x y n, i ≠ .drw x y n) : t.fb = s.fb := by
  cases h
  case clears => exact absurd rfl hcls
  case draws x y n f c => exact absurd rfl (hdrw x y n)
  all_goals rfl

theorem InstrEffect.i_cases {s t : State} {i : Instr} (h : InstrEffect s i t) :
    t.i = s.i ∨ (∃ nnn, i = .ldINnn nnn) ∨ ∃ x, i = .addIVx x ∨ i = .ldFVx x ∨ i = .ldMemVx x ∨ i = .ldVxMem x := by
  cases h
  case setsIndex a hi =>
    obtain hi | ⟨x, hi | hi⟩ := hi
    · exact .inr (.inl hi)
    · exact .inr (.inr ⟨x, .inl hi⟩)
    · exact .inr (.inr ⟨x, .inr (.inl hi)⟩)
  case dumps x m a => exact .inr (.inr ⟨x, .inr (.inr (.inl rfl))⟩)
  case loads x v a hv => exact .inr (.inr ⟨x, .inr (.inr (.inr rfl))⟩)
  all_goals exact .inl rfl

/-- `wait_x` stays, or Fx0A suspends. -/
theorem InstrEffect.waitX_cases {s t : State} {i : Instr} (h : InstrEffect s i t) :
    t.waitX = s.waitX ∨ ∃ x, i = .ldVxK x := by
  cases h
  case suspends x => exact .inr ⟨x, rfl⟩
  all_goals exact .inl rfl

theorem InstrEffect.sameHost {s t : State} {i : Instr} (h : InstrEffect s i t) : SameHost s t := by
  cases h <;> exact ⟨rfl, rfl, rfl, rfl⟩

/-- Of a running block, only Fx0A makes a waiting one, with `pc` held. -/
theorem InstrEffect.pc_eq_of_waitKey {s t : State} {i : Instr} (h : InstrEffect s i t) (hs : s.runState = .running)
    (ht : t.runState = .waitKey) : t.pc = s.pc := by
  have hstay : s.runState ≠ .waitKey := by simp [hs]
  cases h
  case suspends => rfl
  case halts => cases ht
  all_goals exact absurd ht hstay

/-! ### The bounds on `pc` and the saved values -/

theorem toNat_add_two (w : Word) (h : w.toNat ≤ 4094) : (w + 2).toNat = w.toNat + 2 := by bv_omega

theorem toNat_add_four (w : Word) (h : w.toNat ≤ 4094) : (w + 4).toNat = w.toNat + 4 := by bv_omega

theorem addrOperand_le (nnn : Addr) : (addrOperand nnn).toNat ≤ 0xFFF := by
  unfold addrOperand
  bv_omega

/-- "the largest value any instruction can produce is 0xFFF + 0xFF" (R24). -/
theorem indexedTarget_le (s : State) (nnn : Addr) : (indexedTarget s nnn).toNat ≤ 0x10FE := by
  unfold indexedTarget
  bv_omega

/-- `pc` after an instruction that could be fetched (R24, R92). -/
theorem InstrEffect.pc_le {s t : State} {i : Instr} (h : InstrEffect s i t) (hpc : s.pc.toNat ≤ 4094)
    (hstack : ∀ k : Fin 16, s.activeSlot k → (s.stack[k.val]).toNat ≤ 4094) : t.pc.toNat ≤ 0x10FE := by
  have hnext : (s.pc + 2).toNat ≤ 0x10FE := by rw [toNat_add_two s.pc hpc]; omega
  cases h
  case halts => exact hpc.trans (by decide)
  case suspends => exact hpc.trans (by decide)
  case skips c =>
    cases c
    · exact hnext
    · exact (toNat_add_four s.pc hpc).trans_le (by omega)
  case jumps nnn => exact (addrOperand_le nnn).trans (by decide)
  case calls nnn k hk => exact (addrOperand_le nnn).trans (by decide)
  case jumpsIndexed nnn => exact indexedTarget_le s nnn
  case returns k hk =>
    have hslot := hstack k ⟨k, hk, le_refl k⟩
    exact (toNat_add_two _ hslot).trans_le (by omega)
  all_goals exact hnext

/-- The level after a Return is below the one before it (R110). -/
theorem lt_of_lowerLevel (k top : Fin 16) (h : lowerLevel k = some top) : top < k := by
  revert k top
  decide

/-- Below the slot a Call writes lies the old top (R112). -/
theorem exists_top_of_nextSlot (l : Option (Fin 16)) (k j : Fin 16) (h : nextSlot l = some k) (hj : j < k) :
    ∃ top, l = some top ∧ j ≤ top := by
  cases l with
  | none =>
    obtain rfl : 0 = k := by simpa [nextSlot] using h
    exact absurd hj (Fin.not_lt_zero j)
  | some top =>
    refine ⟨top, rfl, ?_⟩
    simp only [nextSlot, Option.dite_none_right_eq_some, Option.some.injEq] at h
    obtain ⟨hlt, rfl⟩ := h
    exact Nat.lt_succ_iff.mp hj

/-- The saved values of active calls after an instruction that could be fetched (R92). -/
theorem InstrEffect.activeSlot_le {s t : State} {i : Instr} (h : InstrEffect s i t) (hpc : s.pc.toNat ≤ 4094)
    (hstack : ∀ k : Fin 16, s.activeSlot k → (s.stack[k.val]).toNat ≤ 4094) (j : Fin 16) (hj : t.activeSlot j) :
    (t.stack[j.val]).toNat ≤ 4094 := by
  obtain ⟨top, htop, hle⟩ := hj
  obtain ⟨hst, hlv⟩ | ⟨-, k, hk, hst, hlv⟩ | ⟨-, k, -, hk, hst, hlv⟩ := h.stack_cases
  · simpa only [hst] using hstack j ⟨top, hlv ▸ htop, hle⟩
  · simpa only [hst] using hstack j ⟨k, hk, hle.trans (lt_of_lowerLevel k top (hlv ▸ htop)).le⟩
  · obtain rfl : k = top := by simpa [hlv] using htop
    by_cases hjk : j = k
    · subst hjk
      simpa only [hst, Vector.getElem_set_self] using hpc
    · have hne : k.val ≠ j.val := fun e => hjk (Fin.ext e.symm)
      simpa only [hst, Vector.getElem_set_ne _ _ hne] using
        hstack j (exists_top_of_nextSlot s.stackLevel k j hk (lt_of_le_of_ne hle hjk))

/-- A fetched instruction keeps the bounds. -/
theorem InstrEffect.pcOk {s t : State} {i : Instr} (h : InstrEffect s i t) (hs : s.runState = .running)
    (hpc : s.pc.toNat ≤ 4094) (hok : s.pcOk) : t.pcOk := by
  obtain ⟨-, -, hstack⟩ := hok
  refine ⟨h.pc_le hpc hstack, fun ht => ?_, h.activeSlot_le hpc hstack⟩
  rwa [h.pc_eq_of_waitKey hs ht]

/-- The bounds speak of `pc`, the run state and the call stack only. -/
theorem pcOk_congr {s t : State} (hpc : t.pc = s.pc) (hrun : t.runState = s.runState) (hst : t.stack = s.stack)
    (hlv : t.stackLevel = s.stackLevel) (h : s.pcOk) : t.pcOk := by
  simpa only [State.pcOk, State.activeSlot, hpc, hrun, hst, hlv] using h

theorem takeEvent_pcOk {s : State} (h : s.pcOk) : s.takeEvent.pcOk := pcOk_congr rfl rfl rfl rfl h

theorem prepared_pcOk {s : State} (keys : BitVec 16) (rnd : Byte) (h : s.pcOk) : (s.prepared keys rnd).pcOk :=
  pcOk_congr (by simp) (by simp) (by simp) (by simp) h

/-- Taking a fault keeps the bounds. -/
theorem halt_pcOk {s : State} {f : FaultCode} {info : Word} (h : s.pcOk) : (s.halt f info).pcOk := by
  obtain ⟨hpc, -, hstack⟩ := h
  exact ⟨hpc, nofun, hstack⟩

/-- The legal record speaks of the run state, `wait_x` and the fault record only. -/
theorem statusOk_of_sameStatus {s t : State} (hsame : SameStatus s t) (h : s.statusOk) : t.statusOk := by
  obtain ⟨hrun, hx, hcode, hinfo⟩ := hsame
  simpa only [State.statusOk, hrun, hx, hcode, hinfo] using h

/-! ### The three events -/

theorem keyEvent_of_waitKey (s : State) (k : Nibble) (h : s.runState = .waitKey) :
    s.keyEvent k = (s.setV s.waitX (k.setWidth 8)).advance.resume := by
  simp only [State.keyEvent, h]

theorem keyEvent_of_ne_waitKey (s : State) (k : Nibble) (h : s.runState ≠ .waitKey) : s.keyEvent k = s := by
  simp only [State.keyEvent]
  split
  · next e => exact absurd e h
  · rfl
  · rfl

/-- A KeyEvent keeps the bounds: the wait it completes stands at a word that could be fetched. -/
theorem keyEvent_pcOk (s : State) (k : Nibble) (h : s.pcOk) : (s.keyEvent k).pcOk := by
  by_cases hs : s.runState = .waitKey
  · obtain ⟨-, hwait, hstack⟩ := h
    rw [keyEvent_of_waitKey s k hs]
    refine ⟨?_, nofun, hstack⟩
    exact (toNat_add_two s.pc (hwait hs)).trans_le (by have := hwait hs; omega)
  · rwa [keyEvent_of_ne_waitKey s k hs]

/-- `StatusMove s t`: a step from `s` to `t`, by what it does to the run state and its record. `step_statusMove` ties it
to `step`. -/
inductive StatusMove (s t : State) : Prop
  | resets (image : List Byte) (he : s.nextEvent = .reset image) (ht : t = s.takeEvent.resetWith image)
  /-- A KeyEvent completes the wait (R183). -/
  | completes (k : Nibble) (he : s.nextEvent = .keyEvent k) (hs : s.runState = .waitKey)
      (ht : t = (s.takeEvent.setV s.waitX (k.setWidth 8)).advance.resume)
  /-- A Tick outside RUNNING or a KeyEvent outside WAIT_KEY. -/
  | idles (he : ∀ image, s.nextEvent ≠ .reset image) (ht : t = s.takeEvent)
  | halts (keys : BitVec 16) (rnd : Byte) (f : FaultCode) (info : Word) (he : s.nextEvent = .tick keys rnd)
      (hs : s.runState = .running) (hf : f ≠ .noFault) (ht : t = (s.prepared keys rnd).halt f info)
  | suspends (keys : BitVec 16) (rnd : Byte) (x : Nibble) (he : s.nextEvent = .tick keys rnd)
      (hs : s.runState = .running) (hx : s.fetches (.ldVxK x)) (ht : t = (s.prepared keys rnd).suspend x)
  | keepsRunning (keys : BitVec 16) (rnd : Byte) (he : s.nextEvent = .tick keys rnd) (hs : s.runState = .running)
      (ht : SameStatus s t)

theorem step_statusMove {s t : State} (h : step s = .next t) : StatusMove s t := by
  obtain ⟨image, he, -, ht⟩ | ⟨k, he, ht⟩ | ⟨keys, rnd, he, -, ht⟩ | ⟨keys, rnd, he, hs, -, ht⟩ |
    ⟨keys, rnd, w, he, hs, -, -, ht⟩ | ⟨keys, rnd, w, i, he, hs, hw, hd, hx⟩ := step_cases s t h
  · exact .resets image he ht
  · by_cases hs : s.runState = .waitKey
    · exact .completes k he hs (ht.trans (keyEvent_of_waitKey s.takeEvent k hs))
    · exact .idles (by simp [he]) (ht.trans (keyEvent_of_ne_waitKey s.takeEvent k hs))
  · exact .idles (by simp [he]) ht
  · exact .halts keys rnd .memoryOutOfBounds s.pc he hs nofun ht
  · exact .halts keys rnd .unrecognizedOpcode w he hs nofun ht
  · obtain hsame | ⟨x, rfl, ht⟩ | ⟨f, info, hf, ht⟩ := exec_status_cases i _ t hx
    · exact .keepsRunning keys rnd he hs (by simpa [SameStatus] using hsame)
    · exact .suspends keys rnd x he hs ⟨w, hw, hd⟩ ht
    · exact .halts keys rnd f info he hs hf ht

/-! ### The decoder's one row for Fx0A -/

/-- A decoded instruction is built by a row of the table that matches the word (R75). -/
theorem exists_row_of_decode {w : Word} {i : Instr} (h : decode w = .instr i) :
    ∃ r ∈ decodeTable, rowMatches r w = true ∧ r.build w = i := by
  rw [decode_eq_instr, decodeWord, Option.map_eq_some_iff] at h
  obtain ⟨r, hr, hi⟩ := h
  exact ⟨r, List.mem_of_find?_eq_some hr, List.find?_some (p := fun r => rowMatches r w) hr, hi⟩

/-- A word that matches the row of Fx0A is Fx0A's word. -/
theorem eq_wordI_of_rowMatches (w : Word) (b : Word → Instr) (h : rowMatches ⟨0xF0FF, 0xF00A, b⟩ w = true) :
    w = wordI 0xF (fieldX w) 0x0A := by
  rw [Laws.word_eq_wordR w, Laws.rowMatches_wordR] at h
  simp only [Bool.and_eq_true, beq_iff_eq] at h
  obtain ⟨hop, -, hy, hn⟩ := h
  rw [Laws.wordI_eq_wordR]
  refine (Laws.word_eq_wordR w).trans ((Laws.wordR_inj _ _ _ _ _ _ _ _).mpr ⟨?_, rfl, ?_, ?_⟩)
  · exact BitVec.and_allOnes.symm.trans hop
  · exact BitVec.and_allOnes.symm.trans hy
  · exact BitVec.and_allOnes.symm.trans hn

/-- The word of Fx0A is the only one that decodes to it. -/
theorem eq_encode_of_decode_ldVxK {w : Word} {x : Nibble} (h : decode w = .instr (.ldVxK x)) :
    w = encode (.ldVxK x) := by
  have hrow : ∀ r ∈ decodeTable, r.build w = .ldVxK x → rowMatches r w = true → w = wordI 0xF x 0x0A := by
    simp only [decodeTable, exactRows, registerRows, byteRows, familyRows, List.cons_append, List.nil_append,
      List.forall_mem_cons, List.not_mem_nil, reduceCtorEq, false_implies, true_and, implies_true, and_true]
    intro hx hm
    injection hx with hx
    exact hx ▸ eq_wordI_of_rowMatches w _ hm
  obtain ⟨r, hr, hm, hb⟩ := exists_row_of_decode h
  exact hrow r hr hb hm

/-! ### The state after reset -/

theorem reset_statusOk : State.reset.statusOk := by decide

theorem resetWith_sameStatus (s : State) (image : List Byte) : SameStatus State.reset (s.resetWith image) :=
  ⟨rfl, rfl, rfl, rfl⟩

theorem reset_pcOk : State.reset.pcOk := by
  refine ⟨by decide, nofun, ?_⟩
  rintro k ⟨top, htop, -⟩
  cases htop

theorem resetWith_pcOk (s : State) (image : List Byte) : (s.resetWith image).pcOk :=
  pcOk_congr rfl rfl rfl rfl reset_pcOk

/-- The font ends below 0x050 (R52). -/
theorem unlisted_eq_zero (a : Nat) (h : 0x50 ≤ a) : Memory.unlisted a = 0 :=
  List.getD_eq_default _ _ h

/-- Memory after `Reset(IMAGE)`: font, image, and zeros elsewhere (R32, R240). -/
theorem resetWith_byteAt (s : State) (image : List Byte) (himage : image.length ≤ 3584) (a : Nat) :
    Memory.byteAt (s.resetWith image).mem a =
      if a < 0x50 then Config.font.getD a 0
      else if 0x200 ≤ a ∧ a < 0x200 + image.length then image.getD (a - 0x200) 0 else 0 := by
  change Memory.byteAt (Memory.putBytes [] 0x200 image) a = _
  by_cases hin : 0x200 ≤ a ∧ a < 0x200 + image.length
  · have hread := byteAt_putBytes_inside image [] 0x200 (a - 0x200) (by omega) rfl (by omega)
    rw [show 0x200 + (a - 0x200) = a by omega] at hread
    rw [hread, if_neg (by omega), if_pos hin]
  · rw [byteAt_putBytes_outside image [] 0x200 a (by omega), if_neg hin]
    change Memory.unlisted a = _
    split
    · rfl
    · next ha => exact unlisted_eq_zero a (by omega)

theorem resetWith_getV (s : State) (image : List Byte) (k : Nibble) : (s.resetWith image).getV k = 0 :=
  Vector.getElem_replicate k.isLt

theorem resetWith_stack (s : State) (image : List Byte) (k : Fin 16) : (s.resetWith image).stack[k.val] = 0 :=
  Vector.getElem_replicate k.isLt

theorem resetWith_cell (s : State) (image : List Byte) (c : Fin 64) (r : Fin 32) :
    (s.resetWith image).fb.cell c r = false :=
  cell_blank c r

/-- With the empty image only the host's side is not that of the state after reset (R225). -/
theorem resetWith_nil (s : State) : SameMachine (s.resetWith []) State.reset :=
  ⟨rfl, fun _ => rfl, rfl, fun _ => rfl, ⟨rfl, fun _ => rfl⟩, ⟨rfl, rfl⟩, fun _ _ => rfl, ⟨rfl, rfl, rfl, rfl⟩⟩

/-- A step that takes a Reset with an image that fits (R240). -/
theorem step_reset (s : State) (image : List Byte) (he : s.nextEvent = .reset image)
    (himage : image.length ≤ Config.progMax) : step s = .next (s.takeEvent.resetWith image) := by
  simp only [step, he, deliver, if_pos himage]

/-! ### The obligations -/

/-- Settles O15: by what the step does to the run state; a fault's record comes with HALTED, and every other move
leaves the record zero. -/
theorem statusRecordStaysLegal : Obligations.StatusRecordStaysLegal := by
  intro s t hok h
  cases step_statusMove h with
  | resets image he ht =>
    subst ht
    exact statusOk_of_sameStatus (resetWith_sameStatus s.takeEvent image) reset_statusOk
  | completes k he hs ht =>
    subst ht
    obtain ⟨-, hclear, -⟩ := hok
    simpa [State.statusOk] using hclear (by simp [hs])
  | idles he ht =>
    subst ht
    exact statusOk_of_sameStatus ⟨rfl, rfl, rfl, rfl⟩ hok
  | halts keys rnd f info he hs hf ht =>
    subst ht
    obtain ⟨hwait, -, -⟩ := hok
    simpa [State.statusOk, hf] using hwait (by simp [hs])
  | suspends keys rnd x he hs hx ht =>
    subst ht
    obtain ⟨-, hclear, -⟩ := hok
    simpa [State.statusOk] using hclear (by simp [hs])
  | keepsRunning keys rnd he hs hsame => exact statusOk_of_sameStatus hsame hok

/-- Settles O16: only a suspending Fx0A begins a wait, with its own word at `pc`, and an idle step changes neither
memory nor `pc`. -/
theorem waitingWordStaysAtPc : Obligations.WaitingWordStaysAtPc := by
  intro s t hok h ht
  cases step_statusMove h with
  | resets image he hr => subst hr; cases ht
  | completes k he hs hr => subst hr; cases ht
  | idles he hr => subst hr; exact (takeEvent_fetchWord s).trans (hok ht)
  | halts keys rnd f info he hs hf hr => subst hr; cases ht
  | suspends keys rnd x he hs hx hr =>
    subst hr
    obtain ⟨w, hw, hd⟩ := hx
    have hfetch := fetchWord_congr s ((s.prepared keys rnd).suspend x) (by simp) (by simp)
    rw [hfetch, hw, suspend_waitX, eq_encode_of_decode_ldVxK hd]
  | keepsRunning keys rnd he hs hsame =>
    obtain ⟨hrun, -⟩ := hsame
    simp [hrun, hs] at ht

/-- Settles O17: an instruction is fetched at `pc` at most 4094, and each of its effects keeps the bounds. -/
theorem pcAndSavedPcsStayBounded : Obligations.PcAndSavedPcsStayBounded := by
  intro s t hok h
  obtain ⟨image, -, -, ht⟩ | ⟨k, -, ht⟩ | ⟨keys, rnd, -, -, ht⟩ | ⟨keys, rnd, -, -, -, ht⟩ |
    ⟨keys, rnd, w, -, -, -, -, ht⟩ | ⟨keys, rnd, w, i, -, hs, hw, -, hx⟩ := step_cases s t h
  · subst ht; exact resetWith_pcOk s.takeEvent image
  · subst ht; exact keyEvent_pcOk s.takeEvent k (takeEvent_pcOk hok)
  · subst ht; exact takeEvent_pcOk hok
  · subst ht; exact halt_pcOk (prepared_pcOk keys rnd hok)
  · subst ht; exact halt_pcOk (prepared_pcOk keys rnd hok)
  · obtain ⟨hpc, -⟩ := (fetchWord_eq_some s w).mp hw
    exact (exec_effect hx).pcOk (by simpa using hs) (by simpa using hpc) (prepared_pcOk keys rnd hok)

/-- Settles O1: the step is `resetWith`, whose fields are those of the state after reset but for the image. -/
theorem resetGivesTheResetValues : Obligations.ResetGivesTheResetValues := by
  intro s image rest himage hev
  have he : s.nextEvent = .reset image := by simp only [State.nextEvent, hev]
  have hrest : s.events.tail = rest := by rw [hev, List.tail_cons]
  refine ⟨s.takeEvent.resetWith image, step_reset s image he himage,
    fun a _ => resetWith_byteAt s.takeEvent image himage a, resetWith_getV s.takeEvent image, rfl, rfl, rfl,
    resetWith_stack s.takeEvent image, rfl, rfl, resetWith_cell s.takeEvent image, rfl, rfl, rfl, rfl, hrest, ?_⟩
  rintro rfl
  exact resetWith_nil s.takeEvent

/-- Settles O11: each clause by the moves that can change the run state. -/
theorem runStateChangesOnlyAsListed : Obligations.RunStateChangesOnlyAsListed := by
  intro s t h
  cases step_statusMove h with
  | resets image he ht =>
    subst ht
    exact ⟨fun _ _ => ⟨image, he⟩, fun _ _ => .inl ⟨image, he⟩, nofun, fun _ _ => rfl, fun _ hne => absurd rfl hne⟩
  | completes k he hs ht =>
    subst ht
    simp [he, hs]
  | idles he ht =>
    subst ht
    exact ⟨fun hs hne => absurd hs hne, fun hs hne => absurd hs hne, fun hne hs => absurd hs hne,
      fun image hr => absurd hr (he image), fun hs hne => absurd hs hne⟩
  | halts keys rnd f info he hs hf ht =>
    subst ht
    simp [he, hs]
  | suspends keys rnd x he hs hx ht =>
    subst ht
    simpa [he, hs] using hx
  | keepsRunning keys rnd he hs hsame =>
    obtain ⟨hrun, -⟩ := hsame
    simp [he, hs, hrun]

/-- Settles O49: what a register can have become, with the flag as the byte 0 or 1. -/
theorem registersChangeOnlyWhereNamed : Obligations.RegistersChangeOnlyWhereNamed := by
  intro i s t k h hne
  obtain hsame | hnamed | ⟨rfl, hflag, c, hc⟩ := (exec_effect h).getV_cases k
  · exact absurd hsame hne
  · exact .inl hnamed
  · exact .inr ⟨rfl, hflag, hc ▸ flagByte_eq_zero_or_one c⟩

/-- Settles O50: one lemma for each piece of state. -/
theorem otherStateChangesOnlyByItsInstructions : Obligations.OtherStateChangesOnlyByItsInstructions := by
  intro i s t h
  have heff := exec_effect h
  obtain ⟨hdelay, hsound⟩ := exec_timers i s t h
  refine ⟨?mem, ?stack, ?grid, ?index, ?delay, ?sound, ?wait, heff.sameHost⟩
  case mem => exact fun hi a => congrArg (Memory.byteAt · a) (heff.mem_eq hi)
  case stack =>
    intro hret hcall
    obtain ⟨hst, hlv⟩ | ⟨hi, -⟩ | ⟨nnn, -, hi, -⟩ := heff.stack_cases
    · exact ⟨hlv, fun k => by rw [hst]⟩
    · exact absurd hi hret
    · exact absurd hi (hcall nnn)
  case grid =>
    intro hcls hdrw c r
    rw [heff.fb_eq hcls hdrw]
  case index => exact fun hne => heff.i_cases.resolve_left hne
  case delay => exact fun hne => not_forall_not.mp fun hi => hne (hdelay hi)
  case sound => exact fun hne => not_forall_not.mp fun hi => hne (hsound hi)
  case wait => exact fun hne => heff.waitX_cases.resolve_left hne

/-- Settles O12: the Tick writes both input fields before its instruction reads them. -/
theorem earlierInputsAreNeverRead : Obligations.EarlierInputsAreNeverRead := by
  intro s keys keys' rnd rnd' hs he
  have hsample : (s.sampleInputs keys' rnd').prepared keys rnd = s.prepared keys rnd := rfl
  rw [step_running_tick s keys rnd hs he, step_running_tick (s.sampleInputs keys' rnd') keys rnd hs he, hsample]

/-- Settles O18: memory lists nothing, and the block runs with an empty call stack. -/
theorem resetMeetsTheInvariants : Obligations.ResetMeetsTheInvariants :=
  ⟨rfl, reset_statusOk, nofun, reset_pcOk⟩

end Sys2Proof.Machine
end

section
/-! SUPPORT. Stores and what they keep: the canonical form of memory along a step, and the big-endian word that a fetch
reads where Fx55 and Fx33 have stored its two bytes. -/

namespace Sys2Proof.Machine

/-! ### The canonical form along a step -/

/-- The canonical form speaks of memory only. -/
theorem memOk_congr {s t : State} (hmem : t.mem = s.mem) (hok : s.memOk) : t.memOk := by
  rwa [State.memOk, hmem]

/-- An instruction writes bytes inside the address space or leaves memory alone. -/
theorem exec_memOk {i : Instr} {s t : State} (hok : s.memOk) (h : exec i s = .next t) : t.memOk := by
  obtain hsame | ⟨bs, hfit, hput⟩ := exec_mem_cases i s t h
  · exact memOk_congr hsame hok
  · rw [State.memOk, hput]
    exact putBytes_wf bs s.mem s.base hfit hok

/-- An image that fits ends inside the address space (R225). -/
theorem resetWith_memOk (s : State) (image : List Byte) (h : image.length ≤ 3584) : (s.resetWith image).memOk :=
  putBytes_wf image [] 0x200 (by omega) rfl

@[simp] theorem keyEvent_mem (s : State) (k : Nibble) : (s.keyEvent k).mem = s.mem := by
  by_cases hs : s.runState = .waitKey
  · rw [keyEvent_of_waitKey s k hs]; rfl
  · rw [keyEvent_of_ne_waitKey s k hs]

/-! ### The stores within bounds -/

/-- Fx33 within bounds (R196). -/
theorem exec_ldBVx_of_le (s : State) (x : Nibble) (h : s.i.toNat + 2 ≤ 4095) :
    exec (.ldBVx x) s = .next (s.setMem (Memory.putBytes s.mem s.i.toNat (bcdDigits (s.getV x)))).advance :=
  if_pos ((rangeOk_iff s.i.toNat 3).mpr (.inr (by omega)))

/-- Fx55 within bounds (R197). -/
theorem exec_ldMemVx_of_le (s : State) (x : Nibble) (h : s.i.toNat + x.toNat ≤ 4095) :
    exec (.ldMemVx x) s = .next ((s.setMem (Memory.putBytes s.mem s.i.toNat (s.regsFrom 0 (x.toNat + 1)))).setI
      (indexPlus s.i (x.toNat + 1))).advance :=
  if_pos ((rangeOk_iff s.i.toNat (x.toNat + 1)).mpr (.inr (by omega)))

/-- The j-th of the bytes that Fx55 stores. -/
theorem dump_getD (s : State) {n j : Nat} (h : j < n) : (s.regsFrom 0 n).getD j 0 = s.getV (BitVec.ofNat 4 j) := by
  rw [regsFrom_getD s 0 n j h, Nat.zero_add]

theorem mem_after_digits {s t : State} {x : Nibble} (hfit : s.i.toNat + 2 ≤ 4095) (h : exec (.ldBVx x) s = .next t) :
    t.mem = Memory.putBytes s.mem s.i.toNat (bcdDigits (s.getV x)) := by
  rw [exec_ldBVx_of_le s x hfit] at h
  injection h with h
  exact h ▸ rfl

theorem mem_after_dump {s t : State} {x : Nibble} (hfit : s.i.toNat + x.toNat ≤ 4095)
    (h : exec (.ldMemVx x) s = .next t) :
    t.mem = Memory.putBytes s.mem s.i.toNat (s.regsFrom 0 (x.toNat + 1)) := by
  rw [exec_ldMemVx_of_le s x hfit] at h
  injection h with h
  exact h ▸ rfl

/-! ### A fetch from stored bytes -/

/-- The first byte of a word is its high byte (R53). -/
theorem wordOfBytes_toNat (hi lo : Byte) : (wordOfBytes hi lo).toNat = hi.toNat * 256 + lo.toNat := by
  rw [wordOfBytes, BitVec.toNat_append, ← Nat.shiftLeft_add_eq_or_of_lt lo.isLt, Nat.shiftLeft_eq]

/-- A fetch at the `k`-th of the bytes stored from `a` on reads that byte and the next one. -/
theorem fetchWord_of_putBytes {t : State} {m : Memory} {a k : Nat} {bs : List Byte} {pc : Word} (hm : m.wf = true)
    (hfit : a + bs.length ≤ 4096) (hk : k + 1 < bs.length) (hmem : t.mem = Memory.putBytes m a bs)
    (hpc : pc.toNat = a + k) :
    (t.setPc pc).fetchWord = some (wordOfBytes (bs.getD k 0) (bs.getD (k + 1) 0)) := by
  rw [fetchWord_eq_some, setPc_mem, setPc_pc, hmem, hpc, Nat.add_assoc a k 1,
    byteAt_putBytes_inside bs m a k hfit hm (by omega), byteAt_putBytes_inside bs m a (k + 1) hfit hm hk]
  exact ⟨by omega, rfl⟩

/-- After Fx55 a fetch at `i + k` reads `V[k]` and the register after it. -/
theorem fetchWord_after_dump {s t : State} {x k : Nibble} (hok : s.memOk) (hfit : s.i.toNat + x.toNat ≤ 4095)
    (hk : k.toNat < x.toNat) (h : exec (.ldMemVx x) s = .next t) :
    (t.setPc (s.i + k.setWidth 16)).fetchWord = some (wordOfBytes (s.getV k) (s.getV (k + 1))) := by
  have hlen : (s.regsFrom 0 (x.toNat + 1)).length = x.toNat + 1 := regsFrom_length s 0 (x.toNat + 1)
  have hpc : (s.i + k.setWidth 16).toNat = s.i.toNat + k.toNat := by bv_omega
  have hnext : BitVec.ofNat 4 (k.toNat + 1) = k + 1 := by bv_omega
  rw [fetchWord_of_putBytes hok (by omega) (by omega) (mem_after_dump hfit h) hpc, dump_getD s (by omega),
    dump_getD s (by omega), hnext, BitVec.ofNat_toNat, BitVec.setWidth_eq]

/-- After Fx33 a fetch at `i` reads the hundreds and the tens. -/
theorem fetchWord_after_digits {s t : State} {x : Nibble} (hok : s.memOk) (hfit : s.i.toNat + 2 ≤ 4095)
    (h : exec (.ldBVx x) s = .next t) :
    (t.setPc s.i).fetchWord = some (wordOfBytes (BitVec.ofNat 8 ((s.getV x).toNat / 100))
      (BitVec.ofNat 8 ((s.getV x).toNat / 10 % 10))) := by
  have hlen : (bcdDigits (s.getV x)).length = 3 := rfl
  rw [fetchWord_of_putBytes hok (by omega) (by omega) (mem_after_digits hfit h) (Nat.add_zero _).symm]
  rfl

/-! ### The obligations -/

/-- Settles O14: a step's memory is that of the state before, or a Reset's, or an instruction's. -/
theorem memoryStaysCanonical : Obligations.MemoryStaysCanonical := by
  intro s t hok h
  obtain ⟨image, -, himage, ht⟩ | ⟨k, -, ht⟩ | ⟨keys, rnd, -, -, ht⟩ | ⟨keys, rnd, -, -, -, ht⟩ |
    ⟨keys, rnd, w, -, -, -, -, ht⟩ | ⟨keys, rnd, w, i, -, -, -, -, hx⟩ := step_cases s t h
  · subst ht; exact resetWith_memOk s.takeEvent image himage
  · subst ht; exact memOk_congr (keyEvent_mem s.takeEvent k) hok
  · subst ht; exact hok
  · subst ht; exact hok
  · subst ht; exact hok
  · exact exec_memOk (s := s.prepared keys rnd) hok hx

/-- Settles O47: the two bytes a fetch reads are neighbours among the stored ones. -/
theorem storedWordsAreFetched : Obligations.StoredWordsAreFetched := by
  intro s t x hok
  refine ⟨fun k hfit hk h => fetchWord_after_dump hok hfit hk h, fun hfit h => ?_⟩
  refine ⟨_, fetchWord_after_digits hok hfit h, ?_⟩
  have hv : (s.getV x).toNat < 256 := (s.getV x).isLt
  rw [wordOfBytes_toNat, BitVec.toNat_ofNat, BitVec.toNat_ofNat, Nat.mod_eq_of_lt (by omega),
    Nat.mod_eq_of_lt (by omega)]

end Sys2Proof.Machine
end

section
/-! SUPPORT. The decoder table as a whole: what each mask looks at, which words the rows of each mask match, and the
decoder and the encoder as inverses of each other. -/

namespace Sys2Proof.Laws

/-! ### A word put together from its fields -/

theorem fieldX_wordI (op x : Nibble) (kk : Byte) : fieldX (wordI op x kk) = x := by
  rw [wordI_eq_wordR, fieldX_wordR]

theorem fieldKk_wordI (op x : Nibble) (kk : Byte) : fieldKk (wordI op x kk) = kk :=
  BitVec.extractLsb'_append_eq_right (a := op ++ x)

theorem fieldNnn_wordA (op : Nibble) (nnn : Addr) : fieldNnn (wordA op nnn) = nnn :=
  BitVec.extractLsb'_append_eq_right (a := op)

/-- The field `y` is the high nibble of the field `kk` (R71). -/
theorem fieldY_eq_extract_fieldKk (w : Word) : fieldY w = (fieldKk w).extractLsb' 4 4 :=
  (BitVec.extractLsb'_extractLsb'_of_le (by decide)).symm

/-- The field `n` is the low nibble of the field `kk` (R71). -/
theorem fieldN_eq_extract_fieldKk (w : Word) : fieldN w = (fieldKk w).extractLsb' 0 4 :=
  (BitVec.extractLsb'_extractLsb'_of_le (by decide)).symm

/-- Every word is a word of format I. -/
theorem word_eq_wordI (w : Word) : w = wordI (fieldOp w) (fieldX w) (fieldKk w) := by
  rw [wordI_eq_wordR, ← fieldY_eq_extract_fieldKk, ← fieldN_eq_extract_fieldKk, ← word_eq_wordR]

theorem fieldKk_eq_fieldKk_iff (w p : Word) :
    fieldKk w = fieldKk p ↔ fieldY w = fieldY p ∧ fieldN w = fieldN p := by
  constructor
  · intro h
    simp only [fieldY_eq_extract_fieldKk, fieldN_eq_extract_fieldKk, h, and_self]
  · rintro ⟨hy, hn⟩
    have hKk (v : Word) : fieldKk v = fieldY v ++ fieldN v :=
      (BitVec.extractLsb'_append_extractLsb'_eq_extractLsb' (x := v) (start₁ := 0) (len₁ := 4) rfl).symm
    rw [hKk, hKk, hy, hn]

/-- Every word is a word of format A. -/
theorem word_eq_wordA (w : Word) : w = wordA (fieldOp w) (fieldNnn w) :=
  (BitVec.extractLsb'_append_extractLsb'_eq_extractLsb' (start₁ := 0) (len₁ := 12) (len₂ := 4) rfl).trans
    BitVec.extractLsb'_eq_self |>.symm

theorem wordOfBytes_highByte_lowByte (w : Word) : wordOfBytes (highByte w) (lowByte w) = w :=
  (BitVec.extractLsb'_append_extractLsb'_eq_extractLsb' (x := w) (start₁ := 0) (len₁ := 8) (len₂ := 8) rfl).trans
    BitVec.extractLsb'_eq_self

/-! ### What each mask looks at -/

/-- A row compares each of the four nibbles under its mask (R75). -/
theorem rowMatches_iff (r : DecodeRow) (w : Word) : rowMatches r w = true ↔
    fieldOp w &&& fieldOp r.mask = fieldOp r.pattern ∧ fieldX w &&& fieldX r.mask = fieldX r.pattern ∧
      fieldY w &&& fieldY r.mask = fieldY r.pattern ∧ fieldN w &&& fieldN r.mask = fieldN r.pattern := by
  conv_lhs => rw [word_eq_wordR w]
  simp only [rowMatches_wordR, Bool.and_eq_true, beq_iff_eq]

/-- The mask 0xFFFF looks at the whole word. -/
theorem rowMatches_exactMask (p : Word) (b : Word → Instr) (w : Word) :
    rowMatches ⟨0xFFFF, p, b⟩ w = true ↔ w = p := by
  rw [rowMatches, beq_iff_eq]
  exact Eq.congr_left BitVec.and_allOnes

/-- The mask 0xF00F looks at the family nibble and the last nibble. -/
theorem rowMatches_registerMask (p : Word) (b : Word → Instr) (w : Word) (hx : fieldX p = 0) (hy : fieldY p = 0) :
    rowMatches ⟨0xF00F, p, b⟩ w = true ↔ fieldOp w = fieldOp p ∧ fieldN w = fieldN p := by
  rw [show (0xF00F : Word) = wordR (.allOnes 4) 0 0 (.allOnes 4) from rfl, rowMatches_iff, hx, hy]
  simp only [fieldOp_wordR, fieldX_wordR, fieldY_wordR, fieldN_wordR, BitVec.and_allOnes, BitVec.ofNat_eq_ofNat,
    BitVec.and_zero, true_and]

/-- The mask 0xF0FF looks at the family nibble and the last byte. -/
theorem rowMatches_byteMask (p : Word) (b : Word → Instr) (w : Word) (hx : fieldX p = 0) :
    rowMatches ⟨0xF0FF, p, b⟩ w = true ↔ fieldOp w = fieldOp p ∧ fieldKk w = fieldKk p := by
  rw [show (0xF0FF : Word) = wordR (.allOnes 4) 0 (.allOnes 4) (.allOnes 4) from rfl, rowMatches_iff, hx,
    fieldKk_eq_fieldKk_iff]
  simp only [fieldOp_wordR, fieldX_wordR, fieldY_wordR, fieldN_wordR, BitVec.and_allOnes, BitVec.ofNat_eq_ofNat,
    BitVec.and_zero, true_and]

/-- The mask 0xF000 looks at the family nibble. -/
theorem rowMatches_familyMask (p : Word) (b : Word → Instr) (w : Word) (hx : fieldX p = 0) (hy : fieldY p = 0)
    (hn : fieldN p = 0) : rowMatches ⟨0xF000, p, b⟩ w = true ↔ fieldOp w = fieldOp p := by
  rw [show (0xF000 : Word) = wordR (.allOnes 4) 0 0 0 from rfl, rowMatches_iff, hx, hy, hn]
  simp only [fieldOp_wordR, fieldX_wordR, fieldY_wordR, fieldN_wordR, BitVec.and_allOnes, BitVec.ofNat_eq_ofNat,
    BitVec.and_zero, and_true]

/-! ### Which words the rows of each mask match -/

theorem exists_exactRow_iff (w : Word) :
    (∃ r ∈ exactRows, rowMatches r w = true) ↔ w = 0x00E0 ∨ w = 0x00EE := by
  simp only [exactRows, List.exists_mem_cons_iff, List.not_mem_nil, false_and, exists_false, or_false,
    rowMatches_exactMask]

/-- The eleven register rows: SE and SNE, and family 8 but for its no-ops (R75, R151). -/
theorem exists_registerRow_iff (w : Word) : (∃ r ∈ registerRows, rowMatches r w = true) ↔
    (fieldOp w = 0x5 ∨ fieldOp w = 0x9) ∧ fieldN w = 0 ∨ fieldOp w = 0x8 ∧ nop8Sub (fieldN w) = false := by
  have hsub : ∀ n, nop8Sub n = false ↔
      n = 0 ∨ n = 1 ∨ n = 2 ∨ n = 3 ∨ n = 4 ∨ n = 5 ∨ n = 6 ∨ n = 7 ∨ n = 0xE := by decide
  simp (disch := decide) only [registerRows, List.exists_mem_cons_iff, List.not_mem_nil, false_and, exists_false,
    or_false, rowMatches_registerMask, hsub, and_or_left, or_and_right, or_assoc]
  exact Iff.rfl

/-- The eleven byte rows: SKP and SKNP, and family F but for its no-ops (R75, R199). -/
theorem exists_byteRow_iff (w : Word) : (∃ r ∈ byteRows, rowMatches r w = true) ↔
    fieldOp w = 0xE ∧ (fieldKk w = 0x9E ∨ fieldKk w = 0xA1) ∨ fieldOp w = 0xF ∧ miscSub (fieldKk w) = true := by
  simp (disch := decide) only [byteRows, List.exists_mem_cons_iff, List.not_mem_nil, false_and, exists_false,
    or_false, rowMatches_byteMask, miscSub, Bool.or_eq_true, beq_iff_eq, and_or_left, or_assoc]
  exact Iff.rfl

/-- A family without a row of its own is one of four. -/
theorem exists_familyRow_iff (w : Word) : (∃ r ∈ familyRows, rowMatches r w = true) ↔
    ¬ (fieldOp w = 0x0 ∨ fieldOp w = 0x5 ∨ fieldOp w = 0x9 ∨ fieldOp w = 0xE) := by
  simp (disch := decide) only [familyRows, List.exists_mem_cons_iff, List.not_mem_nil, false_and, exists_false,
    or_false, rowMatches_familyMask]
  generalize fieldOp w = op
  revert op
  decide

/-! ### The rows before the family rows, which the two no-op rows stand behind (R76) -/

/-- Rows 1 to 24. -/
def specificRows : List DecodeRow := exactRows ++ registerRows ++ byteRows

theorem decodeTable_eq : decodeTable = specificRows ++ familyRows := rfl

theorem exists_specificRow_iff (w : Word) : (∃ r ∈ specificRows, rowMatches r w = true) ↔
    (w = 0x00E0 ∨ w = 0x00EE) ∨
    ((fieldOp w = 0x5 ∨ fieldOp w = 0x9) ∧ fieldN w = 0 ∨ fieldOp w = 0x8 ∧ nop8Sub (fieldN w) = false) ∨
    (fieldOp w = 0xE ∧ (fieldKk w = 0x9E ∨ fieldKk w = 0xA1) ∨ fieldOp w = 0xF ∧ miscSub (fieldKk w) = true) := by
  rw [← exists_exactRow_iff, ← exists_registerRow_iff, ← exists_byteRow_iff]
  simp only [specificRows, List.mem_append, or_and_right, exists_or, or_assoc]

/-- Rows 1 and 2 stand for words of family 0. -/
theorem not_exact_of_fieldOp_ne_zero {w : Word} (h : fieldOp w ≠ 0) : ¬ (w = 0x00E0 ∨ w = 0x00EE) := by
  rintro (rfl | rfl)
  · exact h rfl
  · exact h rfl

/-- In family 8 the specific rows leave the sub-opcodes of NOP8 (R151). -/
theorem exists_specificRow_iff_nop8Sub {w : Word} (hop : fieldOp w = 0x8) :
    (∃ r ∈ specificRows, rowMatches r w = true) ↔ nop8Sub (fieldN w) = false := by
  have hne : fieldOp w ≠ 0 := by rw [hop]; decide
  rw [exists_specificRow_iff, hop, or_iff_right (not_exact_of_fieldOp_ne_zero hne)]
  simp

/-- In family F the specific rows leave the sub-opcodes of NOPF (R199). -/
theorem exists_specificRow_iff_miscSub {w : Word} (hop : fieldOp w = 0xF) :
    (∃ r ∈ specificRows, rowMatches r w = true) ↔ miscSub (fieldKk w) = true := by
  have hne : fieldOp w ≠ 0 := by rw [hop]; decide
  rw [exists_specificRow_iff, hop, or_iff_right (not_exact_of_fieldOp_ne_zero hne)]
  simp

/-- The family rows look at the family nibble only. -/
theorem rowMatches_congr_of_familyRow {w v : Word} (hop : fieldOp w = fieldOp v) :
    ∀ r ∈ familyRows, rowMatches r w = rowMatches r v := by
  have hrow : ∀ r ∈ familyRows, rowMatches r w = true ↔ rowMatches r v = true := by
    simp (disch := decide) only [familyRows, List.forall_mem_cons, rowMatches_familyMask, hop, List.not_mem_nil,
      false_implies, implies_true, and_self]
  exact fun r hr => Bool.eq_iff_iff.mpr (hrow r hr)

/-- A word that no specific row matches is left to the row of its family. -/
theorem decodeWord_of_no_specificRow {w v : Word} {r : DecodeRow}
    (hs : ¬ ∃ r ∈ specificRows, rowMatches r w = true) (hop : fieldOp w = fieldOp v)
    (hv : familyRows.find? (fun r => rowMatches r v) = some r) : decodeWord w = some (r.build w) := by
  have hnone : specificRows.find? (fun r => rowMatches r w) = none :=
    List.find?_eq_none.mpr (fun r hr hm => hs ⟨r, hr, hm⟩)
  rw [decodeWord, decodeTable_eq, List.find?_append, hnone, Option.none_or,
    List.find?_congr (rowMatches_congr_of_familyRow hop), hv, Option.map_some]

/-! ### The decoder reads back the encoder -/

/-- The bits that the rows of a family look at: words of one family that agree on them are decoded by one row. -/
def comparedBits : Nibble → Word
  | 0x0 => 0xFFFF
  | 0x5 | 0x8 | 0x9 => 0xF00F
  | 0xE | 0xF => 0xF0FF
  | _ => 0xF000

/-- Every mask covers the family nibble and lies within its family's compared bits. -/
theorem mask_within_comparedBits :
    ∀ r ∈ decodeTable, fieldOp r.mask = .allOnes 4 ∧ comparedBits (fieldOp r.pattern) &&& r.mask = r.mask := by
  decide

/-- A matching row's pattern has the family nibble of the word (R72). -/
theorem fieldOp_eq_of_rowMatches {r : DecodeRow} (hr : r ∈ decodeTable) {w : Word} (h : rowMatches r w = true) :
    fieldOp w = fieldOp r.pattern := by
  rw [rowMatches_iff, (mask_within_comparedBits r hr).1, BitVec.and_allOnes] at h
  exact h.1

/-- A row does not tell apart words of one family that agree on its compared bits. -/
theorem rowMatches_congr {r : DecodeRow} (hr : r ∈ decodeTable) {w v : Word} (hop : fieldOp w = fieldOp v)
    (h : w &&& comparedBits (fieldOp v) = v &&& comparedBits (fieldOp v)) : rowMatches r w = rowMatches r v := by
  by_cases hf : fieldOp v = fieldOp r.pattern
  · rw [rowMatches, rowMatches, ← (mask_within_comparedBits r hr).2, ← hf, ← BitVec.and_assoc,
      ← BitVec.and_assoc, h]
  · rw [Bool.eq_false_iff.mpr (mt (fieldOp_eq_of_rowMatches hr) (hop ▸ hf)),
      Bool.eq_false_iff.mpr (mt (fieldOp_eq_of_rowMatches hr) hf)]

/-- The row that decodes one word of a family decodes every word that agrees with it on the compared bits. -/
theorem decodeWord_congr {w v : Word} {r : DecodeRow} (hop : fieldOp w = fieldOp v)
    (h : w &&& comparedBits (fieldOp v) = v &&& comparedBits (fieldOp v))
    (hv : decodeTable.find? (fun r => rowMatches r v) = some r) : decodeWord w = some (r.build w) := by
  rw [decodeWord, List.find?_congr (fun r hr => rowMatches_congr hr hop h), hv, Option.map_some]

/-- A word of format R whose row looks at the last nibble. -/
theorem decodeWord_registerWord {op n : Nibble} {m p : Word} (b : Nibble → Nibble → Instr) (x y : Nibble)
    (hop : comparedBits op = 0xF00F)
    (h : decodeTable.find? (fun r => rowMatches r (wordR op 0 0 n)) =
      some ⟨m, p, fun w => b (fieldX w) (fieldY w)⟩) : decodeWord (wordR op x y n) = some (b x y) := by
  refine (decodeWord_congr (by rw [fieldOp_wordR, fieldOp_wordR]) ?_ h).trans
    (by simp only [fieldX_wordR, fieldY_wordR])
  rw [fieldOp_wordR, hop, show (0xF00F : Word) = wordR 0xF 0 0 0xF from rfl, wordR_and, wordR_and]
  simp

/-- A word of format K, whose row looks at the last byte. -/
theorem decodeWord_byteWord {op : Nibble} {kk : Byte} {m p : Word} (b : Nibble → Instr) (x : Nibble)
    (hop : comparedBits op = 0xF0FF)
    (h : decodeTable.find? (fun r => rowMatches r (wordI op 0 kk)) = some ⟨m, p, fun w => b (fieldX w)⟩) :
    decodeWord (wordI op x kk) = some (b x) := by
  refine (decodeWord_congr (by rw [fieldOp_wordI, fieldOp_wordI]) ?_ h).trans (by simp only [fieldX_wordI])
  rw [wordI_eq_wordR, wordI_eq_wordR, fieldOp_wordR, hop, show (0xF0FF : Word) = wordR 0xF 0 0xF 0xF from rfl,
    wordR_and, wordR_and]
  simp

/-- A word in a family of one row. -/
theorem decodeWord_familyWord {op : Nibble} {w : Word} {r : DecodeRow} (hw : fieldOp w = op)
    (hop : comparedBits op = 0xF000)
    (h : decodeTable.find? (fun r => rowMatches r (wordR op 0 0 0)) = some r) : decodeWord w = some (r.build w) := by
  refine decodeWord_congr (by rw [hw, fieldOp_wordR]) ?_ h
  rw [fieldOp_wordR, hop, word_eq_wordR w, hw, show (0xF000 : Word) = wordR 0xF 0 0 0 from rfl, wordR_and, wordR_and]
  simp

/-- A word of format A. -/
theorem decodeWord_addressWord {op : Nibble} {m p : Word} (b : Addr → Instr) (nnn : Addr)
    (hop : comparedBits op = 0xF000)
    (h : decodeTable.find? (fun r => rowMatches r (wordR op 0 0 0)) = some ⟨m, p, fun w => b (fieldNnn w)⟩) :
    decodeWord (wordA op nnn) = some (b nnn) :=
  (decodeWord_familyWord (fieldOp_wordA op nnn) hop h).trans (by simp only [fieldNnn_wordA])

/-- A word of format I. -/
theorem decodeWord_immediateWord {op : Nibble} {m p : Word} (b : Nibble → Byte → Instr) (x : Nibble) (kk : Byte)
    (hop : comparedBits op = 0xF000)
    (h : decodeTable.find? (fun r => rowMatches r (wordR op 0 0 0)) =
      some ⟨m, p, fun w => b (fieldX w) (fieldKk w)⟩) : decodeWord (wordI op x kk) = some (b x kk) :=
  (decodeWord_familyWord (fieldOp_wordI op x kk) hop h).trans (by simp only [fieldX_wordI, fieldKk_wordI])

/-- A word of format D. -/
theorem decodeWord_drw (x y n : Nibble) : decodeWord (wordR 0xD x y n) = some (.drw x y n) :=
  (decodeWord_familyWord (fieldOp_wordR 0xD x y n) rfl rfl).trans
    (by simp only [fieldX_wordR, fieldY_wordR, fieldN_wordR])

/-- A word of family 8 whose last nibble no register row has. -/
theorem decodeWord_nop8 (x y n : Nibble) (h : nop8Sub n = true) :
    decodeWord (wordR 0x8 x y n) = some (.nop8 x y n) := by
  have hop : fieldOp (wordR 0x8 x y n) = 0x8 := fieldOp_wordR 0x8 x y n
  have hs : ¬ ∃ r ∈ specificRows, rowMatches r (wordR 0x8 x y n) = true := by
    rw [exists_specificRow_iff_nop8Sub hop, fieldN_wordR, h]
    decide
  exact (decodeWord_of_no_specificRow (v := 0x8000) hs hop rfl).trans
    (by simp only [fieldX_wordR, fieldY_wordR, fieldN_wordR])

/-- A word of family F whose last byte no byte row has. -/
theorem decodeWord_nopF (x : Nibble) (kk : Byte) (h : miscSub kk = false) :
    decodeWord (wordI 0xF x kk) = some (.nopF x kk) := by
  have hop : fieldOp (wordI 0xF x kk) = 0xF := fieldOp_wordI 0xF x kk
  have hs : ¬ ∃ r ∈ specificRows, rowMatches r (wordI 0xF x kk) = true := by
    rw [exists_specificRow_iff_miscSub hop, fieldKk_wordI, h]
    decide
  exact (decodeWord_of_no_specificRow (v := 0xF000) hs hop rfl).trans
    (by simp only [fieldX_wordI, fieldKk_wordI])

/-- The decoder inverts the encoder on the well-formed instructions (R75, R80). -/
theorem decodeWord_encode (i : Instr) (h : i.wellFormed = true) : decodeWord (encode i) = some i := by
  cases i with
  | cls => rfl
  | ret => rfl
  | seVxVy x y => exact decodeWord_registerWord .seVxVy x y rfl rfl
  | sneVxVy x y => exact decodeWord_registerWord .sneVxVy x y rfl rfl
  | ldVxVy x y => exact decodeWord_registerWord .ldVxVy x y rfl rfl
  | orVxVy x y => exact decodeWord_registerWord .orVxVy x y rfl rfl
  | andVxVy x y => exact decodeWord_registerWord .andVxVy x y rfl rfl
  | xorVxVy x y => exact decodeWord_registerWord .xorVxVy x y rfl rfl
  | addVxVy x y => exact decodeWord_registerWord .addVxVy x y rfl rfl
  | subVxVy x y => exact decodeWord_registerWord .subVxVy x y rfl rfl
  | shrVx x y => exact decodeWord_registerWord .shrVx x y rfl rfl
  | subnVxVy x y => exact decodeWord_registerWord .subnVxVy x y rfl rfl
  | shlVx x y => exact decodeWord_registerWord .shlVx x y rfl rfl
  | skpVx x => exact decodeWord_byteWord .skpVx x rfl rfl
  | sknpVx x => exact decodeWord_byteWord .sknpVx x rfl rfl
  | ldVxDt x => exact decodeWord_byteWord .ldVxDt x rfl rfl
  | ldVxK x => exact decodeWord_byteWord .ldVxK x rfl rfl
  | ldDtVx x => exact decodeWord_byteWord .ldDtVx x rfl rfl
  | ldStVx x => exact decodeWord_byteWord .ldStVx x rfl rfl
  | addIVx x => exact decodeWord_byteWord .addIVx x rfl rfl
  | ldFVx x => exact decodeWord_byteWord .ldFVx x rfl rfl
  | ldBVx x => exact decodeWord_byteWord .ldBVx x rfl rfl
  | ldMemVx x => exact decodeWord_byteWord .ldMemVx x rfl rfl
  | ldVxMem x => exact decodeWord_byteWord .ldVxMem x rfl rfl
  | jp nnn => exact decodeWord_addressWord .jp nnn rfl rfl
  | call nnn => exact decodeWord_addressWord .call nnn rfl rfl
  | seVxKk x kk => exact decodeWord_immediateWord .seVxKk x kk rfl rfl
  | sneVxKk x kk => exact decodeWord_immediateWord .sneVxKk x kk rfl rfl
  | ldVxKk x kk => exact decodeWord_immediateWord .ldVxKk x kk rfl rfl
  | addVxKk x kk => exact decodeWord_immediateWord .addVxKk x kk rfl rfl
  | nop8 x y n => exact decodeWord_nop8 x y n h
  | ldINnn nnn => exact decodeWord_addressWord .ldINnn nnn rfl rfl
  | jpV0 nnn => exact decodeWord_addressWord .jpV0 nnn rfl rfl
  | rndVxKk x kk => exact decodeWord_immediateWord .rndVxKk x kk rfl rfl
  | drw x y n => exact decodeWord_drw x y n
  | nopF x kk => exact decodeWord_nopF x kk (Bool.not_eq_true' _ |>.mp h)

/-! ### The encoder gives the word back -/

theorem wordR_of_fields {w : Word} {op n : Nibble} (h : fieldOp w = op ∧ fieldN w = n) :
    wordR op (fieldX w) (fieldY w) n = w := by
  obtain ⟨rfl, rfl⟩ := h
  exact (word_eq_wordR w).symm

theorem wordI_of_fields {w : Word} {op : Nibble} {kk : Byte} (h : fieldOp w = op ∧ fieldKk w = kk) :
    wordI op (fieldX w) kk = w := by
  obtain ⟨rfl, rfl⟩ := h
  exact (word_eq_wordI w).symm

theorem wordA_of_fieldOp {w : Word} {op : Nibble} (h : fieldOp w = op) : wordA op (fieldNnn w) = w :=
  h ▸ (word_eq_wordA w).symm

theorem encode_build_of_exactRow {w : Word} :
    ∀ r ∈ exactRows, rowMatches r w = true → encode (r.build w) = w := by
  simp only [exactRows, List.forall_mem_cons, rowMatches_exactMask]
  exact ⟨Eq.symm, Eq.symm, nofun⟩

theorem encode_build_of_registerRow {w : Word} :
    ∀ r ∈ registerRows, rowMatches r w = true → encode (r.build w) = w := by
  simp (disch := decide) only [registerRows, List.forall_mem_cons, rowMatches_registerMask]
  refine ⟨?_, ?_, ?_, ?_, ?_, ?_, ?_, ?_, ?_, ?_, ?_, nofun⟩
  all_goals exact wordR_of_fields

theorem encode_build_of_byteRow {w : Word} : ∀ r ∈ byteRows, rowMatches r w = true → encode (r.build w) = w := by
  simp (disch := decide) only [byteRows, List.forall_mem_cons, rowMatches_byteMask]
  refine ⟨?_, ?_, ?_, ?_, ?_, ?_, ?_, ?_, ?_, ?_, ?_, nofun⟩
  all_goals exact wordI_of_fields

theorem encode_build_of_familyRow {w : Word} :
    ∀ r ∈ familyRows, rowMatches r w = true → encode (r.build w) = w := by
  simp (disch := decide) only [familyRows, List.forall_mem_cons, rowMatches_familyMask]
  have address {op : Nibble} : fieldOp w = op → wordA op (fieldNnn w) = w := wordA_of_fieldOp
  have immediate {op : Nibble} (h : fieldOp w = op) : wordI op (fieldX w) (fieldKk w) = w :=
    wordI_of_fields ⟨h, rfl⟩
  have registers {op : Nibble} (h : fieldOp w = op) : wordR op (fieldX w) (fieldY w) (fieldN w) = w :=
    wordR_of_fields ⟨h, rfl⟩
  exact ⟨address, address, immediate, immediate, immediate, immediate, registers, address, address, immediate,
    registers, immediate, nofun⟩

/-- Every row inverts the encoder on the words it matches (R75, R82). -/
theorem encode_build {r : DecodeRow} (hr : r ∈ decodeTable) {w : Word} (h : rowMatches r w = true) :
    encode (r.build w) = w := by
  simp only [decodeTable, List.mem_append] at hr
  obtain ((hr | hr) | hr) | hr := hr
  · exact encode_build_of_exactRow r hr h
  · exact encode_build_of_registerRow r hr h
  · exact encode_build_of_byteRow r hr h
  · exact encode_build_of_familyRow r hr h

/-! ### What the decoder reads is well formed -/

/-- No specific row builds a no-op. -/
theorem wellFormed_build_of_specificRow (w : Word) : ∀ r ∈ specificRows, (r.build w).wellFormed = true := by
  simp [specificRows, exactRows, registerRows, byteRows, Instr.wellFormed]

/-- The two no-op rows are reached only where no other row of their family matches (R76, R80). -/
theorem wellFormed_build_of_familyRow {w : Word} (hs : ¬ ∃ r ∈ specificRows, rowMatches r w = true) :
    ∀ r ∈ familyRows, rowMatches r w = true → (r.build w).wellFormed = true := by
  have hnop8 (hop : fieldOp w = 0x8) : nop8Sub (fieldN w) = true := by
    simpa [exists_specificRow_iff_nop8Sub hop] using hs
  have hnopF (hop : fieldOp w = 0xF) : (!miscSub (fieldKk w)) = true := by
    simpa [exists_specificRow_iff_miscSub hop] using hs
  simp (disch := decide) only [familyRows, List.forall_mem_cons, rowMatches_familyMask]
  exact ⟨fun _ => rfl, fun _ => rfl, fun _ => rfl, fun _ => rfl, fun _ => rfl, fun _ => rfl, hnop8, fun _ => rfl,
    fun _ => rfl, fun _ => rfl, fun _ => rfl, hnopF, nofun⟩

theorem wellFormed_of_decodeWord {w : Word} {i : Instr} (h : decodeWord w = some i) : i.wellFormed = true := by
  obtain ⟨r, hr, rfl⟩ := Option.map_eq_some_iff.mp h
  rw [decodeTable_eq, List.find?_append] at hr
  cases hs : specificRows.find? (fun r => rowMatches r w) with
  | some r' =>
    rw [hs, Option.some_or] at hr
    injection hr with hr
    exact hr ▸ wellFormed_build_of_specificRow w r' (List.mem_of_find?_eq_some hs)
  | none =>
    rw [hs, Option.none_or] at hr
    have hno : ¬ ∃ r ∈ specificRows, rowMatches r w = true := by simpa using hs
    exact wellFormed_build_of_familyRow hno r (List.mem_of_find?_eq_some hr)
      (List.find?_some (p := fun r => rowMatches r w) hr)

/-! ### The words that no row matches -/

/-- The unrecognized words by their fields (R79). -/
theorem decodeWord_eq_none_iff (w : Word) : decodeWord w = none ↔
    (fieldOp w = 0x0 ∧ w ≠ 0x00E0 ∧ w ≠ 0x00EE) ∨ (fieldOp w = 0x5 ∧ fieldN w ≠ 0) ∨
    (fieldOp w = 0x9 ∧ fieldN w ≠ 0) ∨ (fieldOp w = 0xE ∧ fieldKk w ≠ 0x9E ∧ fieldKk w ≠ 0xA1) := by
  have hsplit : decodeWord w = none ↔
      ¬ (∃ r ∈ specificRows, rowMatches r w = true) ∧ ¬ ∃ r ∈ familyRows, rowMatches r w = true := by
    simp only [decodeWord, decodeTable_eq, Option.map_eq_none_iff, List.find?_eq_none, List.forall_mem_append,
      not_exists, not_and]
  have hexact := not_exact_of_fieldOp_ne_zero (w := w)
  rw [hsplit, exists_specificRow_iff, exists_familyRow_iff, not_not]
  constructor
  · rintro ⟨hs, h | h | h | h⟩ <;> simp_all
  · rintro (⟨h, hw⟩ | ⟨h, hn⟩ | ⟨h, hn⟩ | ⟨h, hk⟩) <;> simp_all

theorem fieldOp_eq_iff (w : Word) (op : Nibble) : fieldOp w = op ↔ w.toNat / 0x1000 = op.toNat := by
  rw [← BitVec.toNat_inj, fieldOp, BitVec.extractLsb'_toNat, Nat.shiftRight_eq_div_pow,
    Nat.mod_eq_of_lt (by omega)]

theorem fieldN_eq_iff (w : Word) (n : Nibble) : fieldN w = n ↔ w.toNat % 16 = n.toNat := by
  rw [← BitVec.toNat_inj, fieldN, BitVec.extractLsb'_toNat, Nat.shiftRight_zero]

theorem fieldKk_eq_iff (w : Word) (kk : Byte) : fieldKk w = kk ↔ w.toNat % 256 = kk.toNat := by
  rw [← BitVec.toNat_inj, fieldKk, BitVec.extractLsb'_toNat, Nat.shiftRight_zero]

end Sys2Proof.Laws
end

section
/-! SUPPORT. The obligations about the encoding, from what the decoder table builds and matches. -/

namespace Sys2Proof.Machine

/-- Settles O19: `decodeWord_encode`, the row of each constructor; a word is its two bytes put together again. -/
theorem decodeReadsBackEncode : Obligations.DecodeReadsBackEncode := by
  intro i rest h
  have hword : decode (encode i) = .instr i := (decode_eq_instr _ _).mpr (Laws.decodeWord_encode i h)
  refine ⟨hword, ?_⟩
  simp only [wordBytes, List.cons_append, List.nil_append, decodeBytes, Laws.wordOfBytes_highByte_lowByte, hword]

/-- Settles O20: the row that matched inverts the encoder, and the no-op rows are reached last. -/
theorem encodeReadsBackDecode : Obligations.EncodeReadsBackDecode := by
  intro w i h
  obtain ⟨r, hr, hm, rfl⟩ := exists_row_of_decode h
  exact ⟨Laws.wellFormed_of_decodeWord ((decode_eq_instr _ _).mp h), Laws.encode_build hr hm⟩

/-- Settles O21: `decodeWord_eq_none_iff`, with each field as the quotient or remainder that the statement names. -/
theorem unrecognizedWordsAreTheListed : Obligations.UnrecognizedWordsAreTheListed := by
  intro w
  have hzero : w.toNat / 0x1000 = 0 ↔ w.toNat < 0x1000 := Nat.div_eq_zero_iff_lt (by decide)
  rw [decode_eq_unrecognized, and_iff_left rfl, Laws.decodeWord_eq_none_iff]
  simp only [ne_eq, Laws.fieldOp_eq_iff, Laws.fieldN_eq_iff, Laws.fieldKk_eq_iff, ← hzero]
  exact Iff.rfl

/-- Settles O22: ten concrete words, each looked up in the table. -/
theorem writtenWordsDecode : Obligations.WrittenWordsDecode := by
  unfold Obligations.WrittenWordsDecode
  decide

end Sys2Proof.Machine
end

section
/-! SUPPORT. Where an instruction can move `pc` and which fault it can raise, each said once as a relation, and that
every instruction does one or the other. -/

namespace Sys2Proof.Machine

/-! ### The faults of the instructions -/

/-- `Faults s i f info`: in `s` the instruction `i` meets its own condition of the fault `f` (R210). -/
inductive Faults (s : State) : Instr → FaultCode → Word → Prop
  | overflow (nnn : Addr) (h : s.level = 15) : Faults s (.call nnn) .stackOverflow s.pc
  | underflow (h : s.level = -1) : Faults s .ret .stackUnderflow s.pc
  | sprite (x y n : Nibble) (hn : n ≠ 0) (h : s.i.toNat + n.toNat - 1 > 4095) :
      Faults s (.drw x y n) .memoryOutOfBounds s.i
  | digits (x : Nibble) (h : s.i.toNat + 2 > 4095) : Faults s (.ldBVx x) .memoryOutOfBounds s.i
  | registers {i : Instr} (x : Nibble) (hi : i = .ldMemVx x ∨ i = .ldVxMem x) (h : s.i.toNat + x.toNat > 4095) :
      Faults s i .memoryOutOfBounds s.i
  | keyIndex {i : Instr} (x : Nibble) (hi : i = .skpVx x ∨ i = .sknpVx x) (h : (s.getV x).toNat > 15) :
      Faults s i .keyIndexOutOfRange ((s.getV x).setWidth 16)

theorem level_eq_neg_one_iff (s : State) : s.level = -1 ↔ s.stackLevel = none := by
  unfold State.level
  generalize s.stackLevel = l
  revert l
  decide

theorem level_eq_fifteen_iff (s : State) : s.level = 15 ↔ s.stackLevel = some 15 := by
  unfold State.level
  generalize s.stackLevel = l
  revert l
  decide

/-- The bounds check fails on a non-empty range whose last address is past 4095 (R56). -/
theorem past_of_not_rangeOk {s : State} {count : Nat} (h : ¬ rangeOk s.base count = true) :
    count ≠ 0 ∧ s.i.toNat + count - 1 > 4095 := by
  rw [rangeOk_iff, State.base] at h
  omega

/-- Taking a fault changes nothing but the run state and the record (R212). -/
theorem halts_halt (s : State) (f : FaultCode) (info : Word) : Halts f info s (s.halt f info) := by
  simp [Halts, SameRegs, SameMem, SameStack, SameTimers, SameGrid, SameHost]

/-! ### The sources of `pc` -/

/-- The six skips (R120 to R123, R181, R182). -/
def IsSkip (i : Instr) : Prop :=
  (∃ x y, i = .seVxVy x y ∨ i = .sneVxVy x y) ∨ (∃ x kk, i = .seVxKk x kk ∨ i = .sneVxKk x kk) ∨
    ∃ x, i = .skpVx x ∨ i = .sknpVx x

/-- `PcMoves s i a`: the instruction `i`, if it raises no fault, can move `pc` to `a`; one constructor per source of the
program_counter_mux (R94). -/
inductive PcMoves (s : State) : Instr → Word → Prop
  | sequential {i : Instr} : PcMoves s i (s.pc + 2)
  | skip {i : Instr} (hi : IsSkip i) : PcMoves s i (s.pc + 4)
  | absolute {i : Instr} (nnn : Addr) (hi : i = .jp nnn ∨ i = .call nnn) : PcMoves s i (addrOperand nnn)
  | indexed (nnn : Addr) : PcMoves s (.jpV0 nnn) (indexedTarget s nnn)
  | returns (k : Fin 16) (hk : s.stackLevel = some k) : PcMoves s .ret (s.stack[k.val] + 2)
  /-- The key wait (R183). -/
  | held (x : Nibble) : PcMoves s (.ldVxK x) s.pc

theorem pcMoves_skipIf {i : Instr} (s : State) (c : Bool) (hi : IsSkip i) : PcMoves s i (s.skipIf c).pc := by
  cases c
  · exact .sequential
  · exact .skip hi

theorem addrOperand_toNat (nnn : Addr) : (addrOperand nnn).toNat = nnn.toNat := by
  unfold addrOperand
  bv_omega

theorem indexedTarget_toNat (s : State) (nnn : Addr) :
    (indexedTarget s nnn).toNat = nnn.toNat + (s.getV 0).toNat := by
  unfold indexedTarget
  bv_omega

/-! ### An instruction completes or faults -/

/-- `InstrEnds s i t`: `i` takes `s` to `t` by its own fault, or completes with `pc` moved and no fault taken. -/
inductive InstrEnds (s : State) (i : Instr) : State → Prop
  | faults {f : FaultCode} {info : Word} (h : Faults s i f info) : InstrEnds s i (s.halt f info)
  | completes {t : State} (hpc : PcMoves s i t.pc) (hrun : s.safe → t.safe) : InstrEnds s i t

/-- Every instruction answers a next state, by its own fault or completed. -/
theorem exec_answers_end (i : Instr) (s : State) : ∃ t, exec i s = .next t ∧ InstrEnds s i t := by
  cases i with
  | cls | ldVxVy | orVxVy | andVxVy | xorVxVy | addVxVy | subVxVy | shrVx | subnVxVy | shlVx | nop8 | ldVxKk | addVxKk
  | rndVxKk | ldINnn | ldVxDt | ldDtVx | ldStVx | addIVx | ldFVx | nopF => exact ⟨_, rfl, .completes .sequential id⟩
  | seVxVy x y => exact ⟨_, rfl, .completes (pcMoves_skipIf s _ (.inl ⟨x, y, .inl rfl⟩)) id⟩
  | sneVxVy x y => exact ⟨_, rfl, .completes (pcMoves_skipIf s _ (.inl ⟨x, y, .inr rfl⟩)) id⟩
  | seVxKk x kk => exact ⟨_, rfl, .completes (pcMoves_skipIf s _ (.inr (.inl ⟨x, kk, .inl rfl⟩))) id⟩
  | sneVxKk x kk => exact ⟨_, rfl, .completes (pcMoves_skipIf s _ (.inr (.inl ⟨x, kk, .inr rfl⟩))) id⟩
  | skpVx x =>
    simp only [exec, execSkpVx]
    split
    · next h => exact ⟨_, rfl, .faults (.keyIndex x (.inl rfl) h)⟩
    · exact ⟨_, rfl, .completes (pcMoves_skipIf s _ (.inr (.inr ⟨x, .inl rfl⟩))) id⟩
  | sknpVx x =>
    simp only [exec, execSknpVx]
    split
    · next h => exact ⟨_, rfl, .faults (.keyIndex x (.inr rfl) h)⟩
    · exact ⟨_, rfl, .completes (pcMoves_skipIf s _ (.inr (.inr ⟨x, .inr rfl⟩))) id⟩
  | jp nnn => exact ⟨_, rfl, .completes (.absolute nnn (.inl rfl)) id⟩
  | jpV0 nnn => exact ⟨_, rfl, .completes (.indexed nnn) id⟩
  | ldVxK x => exact ⟨_, rfl, .completes (.held x) nofun⟩
  | ret =>
    simp only [exec, execRet]
    split
    · next h => exact ⟨_, rfl, .faults (.underflow ((level_eq_neg_one_iff s).mpr h))⟩
    · next k hk => exact ⟨_, rfl, .completes (.returns k hk) id⟩
  | call nnn =>
    simp only [exec, execCall]
    split
    · next h => exact ⟨_, rfl, .faults (.overflow nnn ((level_eq_fifteen_iff s).mpr ((nextSlot_none_iff _).mp h)))⟩
    · exact ⟨_, rfl, .completes (.absolute nnn (.inr rfl)) id⟩
  | drw x y n =>
    simp only [exec, execDrw]
    split
    · exact ⟨_, rfl, .completes .sequential id⟩
    · next h =>
      obtain ⟨hn, hpast⟩ := past_of_not_rangeOk h
      exact ⟨_, rfl, .faults (.sprite x y n (ne_of_apply_ne BitVec.toNat hn) hpast)⟩
  | ldBVx x =>
    simp only [exec, execLdBVx]
    split
    · exact ⟨_, rfl, .completes .sequential id⟩
    · next h =>
      obtain ⟨-, hpast⟩ := past_of_not_rangeOk h
      exact ⟨_, rfl, .faults (.digits x hpast)⟩
  | ldMemVx x =>
    simp only [exec, execLdMemVx]
    split
    · exact ⟨_, rfl, .completes .sequential id⟩
    · next h =>
      obtain ⟨-, hpast⟩ := past_of_not_rangeOk h
      exact ⟨_, rfl, .faults (.registers x (.inl rfl) hpast)⟩
  | ldVxMem x =>
    simp only [exec, execLdVxMem]
    split
    · obtain ⟨v, hv⟩ := loadRegs_eq s s.base (regCount x)
      rw [hv]
      exact ⟨_, rfl, .completes .sequential id⟩
    · next h =>
      obtain ⟨-, hpast⟩ := past_of_not_rangeOk h
      exact ⟨_, rfl, .faults (.registers x (.inr rfl) hpast)⟩

theorem exec_ends {i : Instr} {s t : State} (h : exec i s = .next t) : InstrEnds s i t := by
  obtain ⟨u, hu, hends⟩ := exec_answers_end i s
  obtain rfl : u = t := by simpa [hu] using h
  exact hends

/-! ### The obligations -/

/-- Settles O27: the sources of `pc`, each with its target as a number where the statement asks for one. -/
theorem pcMovesOnlyAsListed : Obligations.PcMovesOnlyAsListed := by
  intro i s t hs h ht
  cases exec_ends h with
  | faults hf => exact absurd rfl ht
  | completes hpc hrun =>
    generalize t.pc = a at hpc ⊢
    cases hpc with
    | sequential => exact .inl rfl
    | skip hi => exact .inr (.inl ⟨rfl, hi⟩)
    | absolute nnn hi => exact .inr (.inr (.inl ⟨nnn, hi, addrOperand_toNat nnn⟩))
    | indexed nnn => exact .inr (.inr (.inr (.inl ⟨nnn, rfl, indexedTarget_toNat s nnn⟩)))
    | returns k hk => exact .inr (.inr (.inr (.inr (.inl ⟨rfl, k, hk, rfl⟩))))
    | held x => exact .inr (.inr (.inr (.inr (.inr ⟨x, rfl, rfl⟩))))

/-- Settles O48: a state halted by an instruction is one that `halt` leaves, with a fault of the instruction's own. -/
theorem faultsArePreciseAndListed : Obligations.FaultsArePreciseAndListed := by
  intro i s t hs h ht
  cases exec_ends h with
  | completes hpc hrun => exact absurd ht (hrun hs)
  | @faults f info hf =>
    have hhalts := halts_halt s f info
    cases hf with
    | overflow nnn hl => exact .inl ⟨hhalts, rfl, hl, nnn, rfl⟩
    | underflow hl => exact .inr (.inl ⟨hhalts, rfl, hl, rfl⟩)
    | sprite x y n hn hpast => exact .inr (.inr (.inl ⟨hhalts, rfl, .inl ⟨x, y, n, rfl, hn, hpast⟩⟩))
    | digits x hpast => exact .inr (.inr (.inl ⟨hhalts, rfl, .inr (.inl ⟨x, rfl, hpast⟩)⟩))
    | registers x hi hpast => exact .inr (.inr (.inl ⟨hhalts, rfl, .inr (.inr ⟨x, hi, hpast⟩)⟩))
    | keyIndex x hi hx => exact .inr (.inr (.inr ⟨x, hi, hx, hhalts, rfl⟩))

end Sys2Proof.Machine
end

section
/-! SUPPORT. What an instruction does with other inputs of the Tick: with other keys or another random byte than those
sampled it does the same, unless it is one of the three that read them. -/

namespace Sys2Proof.Machine

/-- The answer with other inputs in place of those sampled. -/
def withInputs (keys : BitVec 16) (rnd : Byte) : Answer → Answer
  | .next t => .next (t.sampleInputs keys rnd)
  | .fault r => .fault r
  | .refused r => .refused r

theorem sampleInputs_loadRegs (s : State) (keys : BitVec 16) (rnd : Byte) (base n : Nat) :
    (s.sampleInputs keys rnd).loadRegs base n = (s.loadRegs base n).sampleInputs keys rnd := by
  induction n with
  | zero => rfl
  | succ n ih =>
    rw [State.loadRegs, ih]
    rfl

theorem sampleInputs_regsFrom (s : State) (keys : BitVec 16) (rnd : Byte) (k n : Nat) :
    (s.sampleInputs keys rnd).regsFrom k n = s.regsFrom k n := by
  induction n generalizing k with
  | zero => rfl
  | succ n ih =>
    rw [State.regsFrom, ih]
    rfl

/-- An instruction does the same with any keys and any random byte, unless it reads them (R90). -/
theorem exec_sampleInputs (i : Instr) (s : State) (keys : BitVec 16) (rnd : Byte)
    (hkeys : (∀ x, i ≠ .skpVx x ∧ i ≠ .sknpVx x) ∨ keys = s.tickKeys)
    (hrnd : (∀ x kk, i ≠ .rndVxKk x kk) ∨ rnd = s.tickRnd) :
    exec i (s.sampleInputs keys rnd) = withInputs keys rnd (exec i s) := by
  cases i with
  | cls | seVxVy | sneVxVy | ldVxVy | orVxVy | andVxVy | xorVxVy | addVxVy | subVxVy | shrVx | subnVxVy | shlVx
  | ldVxDt | ldVxK | ldDtVx | ldStVx | addIVx | ldFVx | jp | seVxKk | sneVxKk | ldVxKk | addVxKk | nop8 | ldINnn
  | jpV0 | nopF => rfl
  | rndVxKk x kk =>
    obtain rfl : rnd = s.tickRnd := hrnd.resolve_left fun h => h x kk rfl
    rfl
  | skpVx x =>
    obtain rfl : keys = s.tickKeys := hkeys.resolve_left fun h => (h x).1 rfl
    simp only [exec, execSkpVx, apply_ite (withInputs s.tickKeys rnd)]
    rfl
  | sknpVx x =>
    obtain rfl : keys = s.tickKeys := hkeys.resolve_left fun h => (h x).2 rfl
    simp only [exec, execSknpVx, apply_ite (withInputs s.tickKeys rnd)]
    rfl
  | ret =>
    simp only [exec, execRet, sampleInputs_stackLevel]
    cases s.stackLevel <;> rfl
  | call nnn =>
    simp only [exec, execCall, sampleInputs_stackLevel]
    cases nextSlot s.stackLevel <;> rfl
  | drw | ldBVx | ldMemVx | ldVxMem =>
    simp only [exec, execDrw, execLdBVx, execLdMemVx, execLdVxMem, apply_ite (withInputs keys rnd),
      sampleInputs_regsFrom, sampleInputs_loadRegs]
    rfl

/-! ### The obligation -/

/-- Settles O51: `exec_sampleInputs`, with one of the two inputs as it was. -/
theorem inputsAreReadOnlyByTheirInstructions : Obligations.InputsAreReadOnlyByTheirInstructions := by
  intro i s t keys rnd h
  refine ⟨fun hi => ?_, fun hi => ?_⟩
  · rw [exec_sampleInputs i s keys s.tickRnd (.inl hi) (.inr rfl), h]
    rfl
  · rw [exec_sampleInputs i s s.tickKeys rnd (.inr rfl) (.inl hi), h]
    rfl

end Sys2Proof.Machine
end

section
/-! SUPPORT. What a Tick does before and instead of an instruction: the fetch and its fault, the unrecognized word, the
idle Tick, the countdown, and that every step has an answer. -/

namespace Sys2Proof.Machine

/-! ### A Tick, by what it fetches -/

section
variable {s : State} {keys : BitVec 16} {rnd : Byte}

/-- A fetch past 4094 halts (R92). -/
theorem step_of_pc_gt (hr : s.runState = .running) (he : s.nextEvent = .tick keys rnd) (hpc : s.pc.toNat > 4094) :
    step s = .next ((s.prepared keys rnd).halt .memoryOutOfBounds s.pc) := by
  have hw : s.fetchWord = none := (fetchWord_eq_none s).mpr hpc
  simp only [step_running_tick s keys rnd hr he, fetchExecute, prepared_fetchWord, hw, prepared_pc, raise]

/-- A word of no row halts (R93). -/
theorem step_of_unrecognized {w : Word} (hr : s.runState = .running) (he : s.nextEvent = .tick keys rnd)
    (hw : s.fetchWord = some w) (hd : decode w = .unrecognized w) :
    step s = .next ((s.prepared keys rnd).halt .unrecognizedOpcode w) := by
  simp only [step_running_tick s keys rnd hr he, fetchExecute, prepared_fetchWord, hw, hd, raise]

/-- A Tick outside RUNNING takes the event and nothing else (R95, R213). -/
theorem step_tick_idle (hr : s.runState ≠ .running) (he : s.nextEvent = .tick keys rnd) :
    step s = .next s.takeEvent := by
  rw [step, he]
  exact tick_idle keys rnd s.takeEvent hr

/-- A Tick taken in RUNNING halts the prepared state, or executes on it the instruction it fetches. -/
theorem step_tick_cases (hr : s.runState = .running) (he : s.nextEvent = .tick keys rnd) :
    (∃ f info, step s = .next ((s.prepared keys rnd).halt f info)) ∨
      ∃ i, s.fetches i ∧ step s = exec i (s.prepared keys rnd) := by
  cases hw : s.fetchWord with
  | none => exact .inl ⟨_, _, step_of_pc_gt hr he ((fetchWord_eq_none s).mp hw)⟩
  | some w =>
    cases hd : decode w with
    | instr i => exact .inr ⟨i, ⟨w, hw, hd⟩, step_of_fetches s keys rnd i hr he ⟨w, hw, hd⟩⟩
    | unrecognized u =>
      obtain ⟨-, rfl⟩ := (decode_eq_unrecognized w u).mp hd
      exact .inl ⟨_, _, step_of_unrecognized hr he hw hd⟩

end

/-- Every step but a Reset with an overlong image has an answer. -/
theorem step_answers (s : State) (hfit : ∀ image, s.nextEvent = .reset image → image.length ≤ 3584) :
    ∃ t, step s = .next t := by
  cases he : s.nextEvent with
  | reset image => exact ⟨_, step_reset s image he (hfit image he)⟩
  | keyEvent k => exact ⟨s.takeEvent.keyEvent k, by rw [step, he, deliver]⟩
  | tick keys rnd =>
    by_cases hr : s.runState = .running
    · obtain ⟨f, info, h⟩ | ⟨i, -, h⟩ := step_tick_cases hr he
      · exact ⟨_, h⟩
      · obtain ⟨t, ht, -⟩ := exec_answers_effect i (s.prepared keys rnd)
        exact ⟨t, h.trans ht⟩
    · exact ⟨_, step_tick_idle hr he⟩

/-- After a Tick taken in RUNNING each timer holds the countdown, unless the Tick's instruction writes it (R91). -/
theorem step_timers {s t : State} {keys : BitVec 16} {rnd : Byte} (hr : s.runState = .running)
    (he : s.nextEvent = .tick keys rnd) (h : step s = .next t) :
    ((∀ x, ¬ s.fetches (.ldDtVx x)) → t.delayTimer = countdown s.delayTimer) ∧
      ((∀ x, ¬ s.fetches (.ldStVx x)) → t.soundTimer = countdown s.soundTimer) := by
  obtain ⟨f, info, hstep⟩ | ⟨i, hf, hstep⟩ := step_tick_cases hr he
  · rw [hstep] at h
    injection h with h
    exact h ▸ ⟨fun _ => rfl, fun _ => rfl⟩
  · obtain ⟨hdelay, hsound⟩ := exec_timers i _ t (hstep.symm.trans h)
    refine ⟨fun hno => hdelay ?_, fun hno => hsound ?_⟩
    · rintro x rfl; exact hno x hf
    · rintro x rfl; exact hno x hf

/-! ### The obligations -/

/-- Settles O6: the countdown of `step_timers`, and the three timer accesses on the prepared state. -/
theorem timersCountDownOncePerTick : Obligations.TimersCountDownOncePerTick := by
  intro s t keys rnd hr he h
  obtain ⟨hdelay, hsound⟩ := step_timers hr he h
  have eq_of_fetches {i : Instr} {u : State} (hf : s.fetches i) (hu : exec i (s.prepared keys rnd) = .next u) :
      u = t :=
    Host.Outcome.next.inj (hu.symm.trans ((step_of_fetches s keys rnd i hr he hf).symm.trans h))
  refine ⟨fun hno => ?_, fun hno => ?_, fun x hf => ?_, fun x hf => ?_, fun x hf => ?_⟩
  · rw [hdelay hno, countdown_toNat]
  · rw [hsound hno, countdown_toNat]
  · obtain rfl := eq_of_fetches hf rfl
    rfl
  · obtain rfl := eq_of_fetches hf rfl
    rfl
  · obtain rfl := eq_of_fetches hf rfl
    rw [advance_getV, getV_setV_self, prepared_delayTimer, countdown_toNat]

/-- Settles O13: every instruction has an effect; the step by its event. -/
theorem everyInstructionAndStepAnswers : Obligations.EveryInstructionAndStepAnswers := by
  refine ⟨fun i s => ?_, step_answers⟩
  obtain ⟨t, ht, -⟩ := exec_answers_effect i s
  exact ⟨t, ht⟩

/-- Settles O4: the word is its two bytes in order, and the fetch fault is `halt` on the prepared state. -/
theorem fetchIsBigEndianAndBounded : Obligations.FetchIsBigEndianAndBounded := by
  refine fun s => ⟨fun hpc => ?_, fun keys rnd hr he hpc => ?_⟩
  · exact ⟨_, (fetchWord_eq_some s _).mpr ⟨hpc, rfl⟩, wordOfBytes_toNat _ _⟩
  · exact ⟨_, step_of_pc_gt hr he hpc, halts_halt _ _ _, rfl⟩

/-- Settles O5: `step_of_unrecognized`, a halt of the prepared state. -/
theorem unrecognizedWordHalts : Obligations.UnrecognizedWordHalts :=
  fun _ _ _ _ hr he hw hd => ⟨_, step_of_unrecognized hr he hw hd, halts_halt _ _ _, rfl⟩

/-- Settles O7: taking the event changes the host's side only. -/
theorem tickOutsideRunningIsIdle : Obligations.TickOutsideRunningIsIdle := by
  intro s keys rnd hr he
  refine ⟨_, step_tick_idle hr he, ?_⟩
  simp [SameMachine, SameRegs, SameMem, SameStack, SameTimers, SameGrid, SameStatus]

end Sys2Proof.Machine
end

section
/-! SUPPORT. The control flow by what it finds on the call stack: what CALL and RET answer at each level, and that a
Return undoes the Call it follows. -/

namespace Sys2Proof.Machine

/-! ### CALL and RET by the level of the call stack -/

/-- CALL below level 15 (R112). -/
theorem exec_call_of_nextSlot {s : State} {k : Fin 16} (nnn : Addr) (hk : nextSlot s.stackLevel = some k) :
    exec (.call nnn) s = .next ((s.pushAt k s.pc).setPc (addrOperand nnn)) := by
  simp only [exec, execCall, hk]

/-- CALL at level 15 (R112). -/
theorem exec_call_of_full {s : State} (nnn : Addr) (h : s.level = 15) :
    exec (.call nnn) s = .next (s.halt .stackOverflow s.pc) := by
  have hfull : nextSlot s.stackLevel = none := (nextSlot_none_iff _).mpr ((level_eq_fifteen_iff s).mp h)
  simp only [exec, execCall, hfull, raise]

/-- RET from a subroutine (R110). -/
theorem exec_ret_of_top {s : State} {k : Fin 16} (hk : s.stackLevel = some k) :
    exec .ret s = .next ((s.popFrom k).setPc (s.stack[k.val] + 2)) := by
  simp only [exec, execRet, hk]

/-- RET outside any subroutine (R110). -/
theorem exec_ret_of_empty {s : State} (h : s.level = -1) : exec .ret s = .next (s.halt .stackUnderflow s.pc) := by
  have hempty : s.stackLevel = none := (level_eq_neg_one_iff s).mp h
  simp only [exec, execRet, hempty, raise]

/-- There is a free slot below level 15 (R112). -/
theorem exists_nextSlot_of_level_lt {s : State} (h : s.level < 15) : ∃ k, nextSlot s.stackLevel = some k := by
  rw [← Option.ne_none_iff_exists', Ne, nextSlot_none_iff, ← level_eq_fifteen_iff]
  exact h.ne

/-- The free slot is one above the level, counted from -1 (R25). -/
theorem val_of_nextSlot {s : State} {k : Fin 16} (h : nextSlot s.stackLevel = some k) :
    (k.val : Int) = s.level + 1 := by
  unfold State.level
  generalize s.stackLevel = l at h
  revert l k
  decide

/-- The level of a state popped from its top slot (R110). -/
theorem level_popFrom {s : State} {k : Fin 16} (hk : s.stackLevel = some k) : (s.popFrom k).level = s.level - 1 := by
  simp only [State.level, popFrom_stackLevel, hk]
  clear hk
  revert k
  decide

/-! ### What a write of `pc` and of the call stack leaves unchanged -/

theorem sameButPc_setPc (s : State) (a : Word) : SameButPc s (s.setPc a) := by
  simp [SameButPc, SameBeyondRegs, SameDeep, SameRegs, SameMem, SameStack, SameTimers, SameGrid, SameStatus, SameHost]

/-- A write of the call stack and `pc`, which `pushAt` and `popFrom` with `setPc` are. -/
theorem sameButStackPc_with (s : State) (stack : Vector Word 16) (level : Option (Fin 16)) (a : Word) :
    SameButStackPc s { s with stack := stack, stackLevel := level, pc := a } :=
  ⟨fun _ => rfl, rfl, ⟨rfl, rfl⟩, fun _ _ => rfl, fun _ => rfl, ⟨rfl, rfl, rfl, rfl⟩, ⟨rfl, rfl, rfl, rfl⟩⟩

/-! ### The obligations -/

/-- Settles O26: the Return finds the pushed address in the slot the Call took, and lowers the level from that slot to
the Call's own. -/
theorem returnResumesAfterTheCall : Obligations.ReturnResumesAfterTheCall := by
  intro s t u nnn hlevel hcall hstack
  obtain ⟨htop, hslots⟩ := hstack
  obtain ⟨k, hk⟩ := exists_nextSlot_of_level_lt hlevel
  obtain rfl : (s.pushAt k s.pc).setPc (addrOperand nnn) = t :=
    Host.Outcome.next.inj ((exec_call_of_nextSlot nnn hk).symm.trans hcall)
  have hsaved : u.stack[k.val] = s.pc := by simpa using hslots k
  refine ⟨_, exec_ret_of_top htop, ?_, lowerLevel_nextSlot s.stackLevel k hk⟩
  rw [setPc_pc, hsaved]

/-- Settles O23: both jumps are `setPc`, whose targets are numbers without a reduction. -/
theorem jumpsSetOnlyThePc : Obligations.JumpsSetOnlyThePc := by
  intro s nnn
  constructor
  · exact ⟨_, rfl, addrOperand_toNat nnn, sameButPc_setPc s _⟩
  · exact ⟨_, rfl, indexedTarget_toNat s nnn, sameButPc_setPc s _⟩

/-- Settles O24: below level 15 one slot is written, the one above the level; at level 15 there is none. -/
theorem callPushesItsOwnAddress : Obligations.CallPushesItsOwnAddress := by
  refine fun s nnn => ⟨fun hlevel => ?_, fun hfull => ?_⟩
  · obtain ⟨k, hk⟩ := exists_nextSlot_of_level_lt hlevel
    have hsaved : (s.stack.set k.val s.pc k.isLt)[k.val] = s.pc := Vector.getElem_set_self _
    have hothers (j : Fin 16) (hj : j ≠ k) : (s.stack.set k.val s.pc k.isLt)[j.val] = s.stack[j.val] :=
      Vector.getElem_set_ne _ _ (Fin.val_ne_of_ne hj.symm)
    exact ⟨_, k, exec_call_of_nextSlot nnn hk, val_of_nextSlot hk, rfl, hsaved, hothers, addrOperand_toNat nnn,
      sameButStackPc_with s _ _ _⟩
  · exact ⟨_, exec_call_of_full nnn hfull, halts_halt s _ _⟩

/-- Settles O25: a Return pops from the top slot, and no slot is written (decision D22); with no top slot it halts. -/
theorem returnPopsTheSavedPc : Obligations.ReturnPopsTheSavedPc := by
  refine fun s => ⟨fun k hk => ?_, fun hempty => ?_⟩
  · exact ⟨_, exec_ret_of_top hk, level_popFrom hk, rfl, fun _ => rfl, sameButStackPc_with s _ _ _⟩
  · exact ⟨_, exec_ret_of_empty hempty, halts_halt s _ _⟩

end Sys2Proof.Machine
end

section
/-! SUPPORT. The register skips: where a skip on the equality or inequality of two bytes leaves `pc`, with the bytes
compared as unsigned numbers (R120 to R124). -/

namespace Sys2Proof.Machine

theorem sameButPc_skipIf (s : State) (c : Bool) : SameButPc s (s.skipIf c) := sameButPc_setPc s _

theorem skipIf_beq_pc (s : State) (a b : Byte) :
    (s.skipIf (a == b)).pc = if a.toNat = b.toNat then s.pc + 4 else s.pc + 2 := by
  simp only [skipIf_eq, setPc_pc, beq_iff_eq, BitVec.toNat_inj]

theorem skipIf_bne_pc (s : State) (a b : Byte) :
    (s.skipIf (a != b)).pc = if a.toNat = b.toNat then s.pc + 2 else s.pc + 4 := by
  simp only [skipIf_eq, setPc_pc, bne_iff_ne, ne_eq, ite_not, BitVec.toNat_inj]

/-! ### The obligation -/

/-- Settles O28: each of the four is `skipIf` on an equality or an inequality, which writes `pc` alone. -/
theorem skipsCompareBytes : Obligations.SkipsCompareBytes := by
  refine fun s x y kk => ⟨?seByte, ?sneByte, ?seReg, ?sneReg⟩
  case seByte => exact ⟨_, rfl, sameButPc_skipIf s _, skipIf_beq_pc s (s.getV x) kk⟩
  case sneByte => exact ⟨_, rfl, sameButPc_skipIf s _, skipIf_bne_pc s (s.getV x) kk⟩
  case seReg => exact ⟨_, rfl, sameButPc_skipIf s _, skipIf_beq_pc s (s.getV x) (s.getV y)⟩
  case sneReg => exact ⟨_, rfl, sameButPc_skipIf s _, skipIf_bne_pc s (s.getV x) (s.getV y)⟩

end Sys2Proof.Machine
end

section
/-! SUPPORT. The operations that end in a single write of `V[x]` or of `i`: what they leave there and what they leave
unchanged. -/

namespace Sys2Proof.Machine

theorem advance_setV_getV_self (s : State) (x : Nibble) (b : Byte) : (s.setV x b).advance.getV x = b := by
  rw [advance_getV, getV_setV_self]

theorem writesRegister_setV (s : State) (x : Nibble) (b : Byte) : WritesRegister x s (s.setV x b).advance := by
  have hregs : SameRegsBut x s (s.setV x b).advance := fun k hk => getV_setV_ne s x k b hk
  refine ⟨hregs, ?_, rfl⟩
  simp [SameBeyondRegs, SameDeep, SameMem, SameStack, SameTimers, SameGrid, SameStatus, SameHost]

theorem sameButIndexPc_setI (s : State) (a : Word) : SameButIndexPc s (s.setI a).advance := by
  simp [SameButIndexPc, SameDeep, SameRegs, SameMem, SameStack, SameTimers, SameGrid, SameStatus, SameHost]

/-! ### The obligations -/

/-- Settles O29: two writes of `V[x]` and one of `i`; the sum of bytes is by itself modulo 256. -/
theorem immediateLoadsAndAdd : Obligations.ImmediateLoadsAndAdd := by
  refine fun s x kk nnn => ⟨?load, ?add, ?index⟩
  case load => exact ⟨_, rfl, advance_setV_getV_self s x kk, writesRegister_setV s x kk⟩
  case add =>
    refine ⟨_, rfl, ?_, writesRegister_setV s x (s.getV x + kk)⟩
    rw [advance_setV_getV_self, BitVec.toNat_add]
  case index => exact ⟨_, rfl, addrOperand_toNat nnn, sameButIndexPc_setI s _, rfl⟩

/-- Settles O30: a write of `V[x]`, whose byte is the conjunction bit by bit. -/
theorem randomByteIsMasked : Obligations.RandomByteIsMasked := by
  intro s x kk
  refine ⟨_, exec_rndVxKk s x kk, fun j => ?_, writesRegister_setV s x (s.rand &&& kk)⟩
  rw [advance_setV_getV_self, BitVec.getLsbD_and, State.rand]

end Sys2Proof.Machine
end

section
/-! SUPPORT. The register-register ALU family: what a flag-writing instruction leaves in its two registers and leaves
unchanged, and the flags and results of bytes as numbers (spec/44_alu.md). -/

namespace Sys2Proof.Machine

/-! ### The two writes of a flag-writing instruction -/

theorem advance_writeFlagged_getV_self (s : State) (x : Nibble) (f r : Byte) :
    (s.writeFlagged x f r).advance.getV x = r := by
  rw [advance_getV, writeFlagged_getV, if_pos rfl]

theorem writesRegisterAndFlag_writeFlagged (s : State) (x : Nibble) (f r : Byte) :
    WritesRegisterAndFlag x f s (s.writeFlagged x f r).advance := by
  have hflag (hx : x ≠ 15) : (s.writeFlagged x f r).advance.getV 15 = f := by
    rw [advance_getV, writeFlagged_getV, if_neg hx.symm, if_pos rfl]
  have hothers (k : Nibble) (hk : k ≠ x) (hk' : k ≠ 15) : (s.writeFlagged x f r).advance.getV k = s.getV k := by
    rw [advance_getV, writeFlagged_getV, if_neg hk, if_neg hk']
  refine ⟨hflag, hothers, ?_, rfl⟩
  simp [SameBeyondRegs, SameDeep, SameMem, SameStack, SameTimers, SameGrid, SameStatus, SameHost]

/-! ### The flags as conditions on numbers (R140) -/

theorem flagByte_decide (p : Prop) [Decidable p] : flagByte (decide p) = if p then 1 else 0 := by
  simp only [flagByte, decide_eq_true_eq]

theorem shrFlag_eq (a : Byte) : shrFlag a = if a.toNat % 2 = 1 then 1 else 0 := by
  rw [shrFlag, BitVec.getLsbD, Nat.testBit_zero, flagByte_decide]

theorem shlFlag_eq (a : Byte) : shlFlag a = if a.toNat ≥ 0x80 then 1 else 0 := by
  have hbit : a.getLsbD 7 = decide (a.toNat ≥ 0x80) := a.msb_eq_getLsbD_last.symm.trans a.msb_eq_decide
  rw [shlFlag, hbit, flagByte_decide]

/-! ### The two subtractions, which share their flag and their difference -/

theorem byte_toNat_sub (a b : Byte) : ((a - b).toNat : Int) = ((a.toNat : Int) - (b.toNat : Int)) % 256 := by
  rw [BitVec.toNat_sub]
  omega

/-- What a write of `a - b` with its flag leaves, for SUB and for SUBN (R147, R149). -/
theorem writeFlagged_sub (s : State) (x : Nibble) (a b : Byte) :
    (((s.writeFlagged x (greaterFlag a b) (a - b)).advance.getV x).toNat : Int) =
        ((a.toNat : Int) - (b.toNat : Int)) % 256 ∧
      WritesRegisterAndFlag x (if a.toNat > b.toNat then 1 else 0) s
        (s.writeFlagged x (greaterFlag a b) (a - b)).advance := by
  rw [advance_writeFlagged_getV_self, greaterFlag, flagByte_decide]
  exact ⟨byte_toNat_sub a b, writesRegisterAndFlag_writeFlagged s x _ _⟩

/-! ### The obligations -/

/-- Settles O31: each of the four is one write of `V[x]`, which no flag goes with. -/
theorem copyAndBitwiseOperations : Obligations.CopyAndBitwiseOperations := by
  refine fun s x y => ⟨?copy, ?or, ?and, ?xor⟩
  case copy => exact ⟨_, rfl, advance_setV_getV_self s x _, writesRegister_setV s x _⟩
  case or =>
    refine ⟨_, rfl, writesRegister_setV s x (s.getV x ||| s.getV y), fun j => ?_⟩
    rw [advance_setV_getV_self, BitVec.getLsbD_or]
  case and =>
    refine ⟨_, rfl, writesRegister_setV s x (s.getV x &&& s.getV y), fun j => ?_⟩
    rw [advance_setV_getV_self, BitVec.getLsbD_and]
  case xor =>
    refine ⟨_, rfl, writesRegister_setV s x (s.getV x ^^^ s.getV y), fun j => ?_⟩
    rw [advance_setV_getV_self, BitVec.getLsbD_xor]

/-- Settles O32: the sum of bytes is by itself modulo 256, and its flag compares the sum of the numbers. -/
theorem addWritesCarry : Obligations.AddWritesCarry := by
  intro s x y
  refine ⟨_, rfl, ?_, ?_⟩
  · rw [advance_writeFlagged_getV_self, BitVec.toNat_add]
  · rw [addFlag, flagByte_decide]
    exact writesRegisterAndFlag_writeFlagged s x _ _

/-- Settles O33: SUBN is SUB with the operands exchanged and the destination kept. -/
theorem subtractsWriteNoBorrow : Obligations.SubtractsWriteNoBorrow := by
  refine fun s x y => ⟨?sub, ?subn⟩
  case sub => exact ⟨_, rfl, writeFlagged_sub s x (s.getV x) (s.getV y)⟩
  case subn => exact ⟨_, rfl, writeFlagged_sub s x (s.getV y) (s.getV x)⟩

/-- Settles O34: the shifts halve and double the number, and the flag is the bit they lose, bit 0 or bit 7. -/
theorem shiftsWriteTheBitShiftedOut : Obligations.ShiftsWriteTheBitShiftedOut := by
  refine fun s x y => ⟨⟨_, rfl, ?half, ?bit0⟩, ⟨_, rfl, ?double, ?bit7⟩⟩
  case half => rw [advance_writeFlagged_getV_self, BitVec.toNat_ushiftRight, Nat.shiftRight_one]
  case bit0 => exact shrFlag_eq (s.getV x) ▸ writesRegisterAndFlag_writeFlagged s x _ _
  case double => rw [advance_writeFlagged_getV_self, BitVec.toNat_shiftLeft, Nat.shiftLeft_eq]
  case bit7 => exact shlFlag_eq (s.getV x) ▸ writesRegisterAndFlag_writeFlagged s x _ _

/-- Settles O35: a no-op is `advance`, a write of `pc` alone. -/
theorem noOpsOnlyAdvance : Obligations.NoOpsOnlyAdvance := by
  refine fun s x y n kk => ⟨?nop8, ?nopF⟩
  case nop8 => exact ⟨_, rfl, rfl, sameButPc_setPc s (s.pc + 2)⟩
  case nopF => exact ⟨_, rfl, rfl, sameButPc_setPc s (s.pc + 2)⟩

end Sys2Proof.Machine
end

section
/-! SUPPORT. The drawing loops against the cell-by-cell reading of a sprite: each loop toggles the cells it covers and
reports whether one of them was on, and no cell is covered twice (spec/45_display.md rules R162 to R166). -/

namespace Sys2Proof.Machine

/-! ### Drawing a set of cells -/

/-- From `d` to `e` exactly the cells of `cover` are toggled, and a collision is added where one of them was on. -/
structure Toggles (cover : Fin 64 → Fin 32 → Bool) (d e : Drawing) : Prop where
  cell : ∀ c r, e.grid.cell c r = (d.grid.cell c r ^^ cover c r)
  collision : e.collision = true ↔ d.collision = true ∨ ∃ c r, d.grid.cell c r = true ∧ cover c r = true

theorem toggles_nothing {cover : Fin 64 → Fin 32 → Bool} (d : Drawing) (h : ∀ c r, cover c r = false) :
    Toggles cover d d :=
  ⟨fun c r => by simp [h], by simp [h]⟩

/-- Two sets of cells without a common cell, drawn one after the other, are drawn as their union: the second finds its
cells as they were before the first. -/
theorem Toggles.trans {p q cover : Fin 64 → Fin 32 → Bool} {d e f : Drawing} (hp : Toggles p d e) (hq : Toggles q e f)
    (hdisjoint : ∀ c r, q c r = true → p c r = false) (hcover : ∀ c r, cover c r = (p c r || q c r)) :
    Toggles cover d f := by
  have hfound (c r) (h : q c r = true) : e.grid.cell c r = d.grid.cell c r := by
    rw [hp.cell, hdisjoint c r h, Bool.xor_false]
  constructor
  case cell =>
    intro c r
    rw [hq.cell, hp.cell, hcover]
    cases h : q c r
    · simp
    · simp [hdisjoint c r h]
  case collision =>
    have hseen : (∃ c r, e.grid.cell c r = true ∧ q c r = true) ↔ ∃ c r, d.grid.cell c r = true ∧ q c r = true :=
      exists₂_congr fun c r => and_congr_left fun h => by rw [hfound c r h]
    rw [hq.collision, hp.collision, hseen, or_assoc, ← exists_or]
    simp only [← exists_or, ← and_or_left, hcover, Bool.or_eq_true]

/-! ### The cells of one bit, of one sprite row and of the whole sprite -/

/-- The cell of one sprite bit, where the bit is set and its column not clipped. -/
def bitCovers (col : Nat) (row : Fin 32) (bit : Bool) (c : Fin 64) (r : Fin 32) : Bool :=
  bit && decide (c.val = col) && decide (r = row)

theorem toggles_plot (d : Drawing) (col : Nat) (row : Fin 32) (bit : Bool) :
    Toggles (bitCovers col row bit) d (d.plot col row bit) := by
  refine ⟨plot_cell d col row bit, ?_⟩
  simp only [Drawing.plot, bitCovers]
  split
  case isTrue h =>
    have hcol (c : Fin 64) : c.val = col ↔ c = ⟨col, h⟩ := (Fin.ext_iff (b := ⟨col, h⟩)).symm
    cases bit <;> simp [hcol]
  case isFalse h =>
    have hcol (c : Fin 64) : c.val ≠ col := by omega
    simp [hcol]

/-- The cells of the last `n` bits of a sprite row: its rightmost `n` columns up to column `px + 7`. -/
def byteCovers (px : Nat) (row : Fin 32) (byte : Byte) (n : Nat) (c : Fin 64) (r : Fin 32) : Bool :=
  decide (r = row) && decide (px + (8 - n) ≤ c.val) && decide (c.val < px + 8) &&
    byte.getLsbD (7 - (c.val - px))

/-- One bit more is the bit on the column left of the others. -/
theorem byteCovers_succ (px : Nat) (row : Fin 32) (byte : Byte) {n : Nat} (hn : n < 8) (c : Fin 64) (r : Fin 32) :
    byteCovers px row byte (n + 1) c r =
      (bitCovers (px + (7 - n)) row (byte.getLsbD n) c r || byteCovers px row byte n c r) := by
  rw [Bool.eq_iff_iff]
  simp only [byteCovers, bitCovers, Bool.or_eq_true, Bool.and_eq_true, decide_eq_true_eq]
  by_cases hc : c.val = px + (7 - n)
  · have hbit : 7 - (c.val - px) = n := by omega
    have hin : px + (8 - (n + 1)) ≤ c.val ∧ c.val < px + 8 := by omega
    have hright : ¬ px + (8 - n) ≤ c.val := by omega
    rw [hbit]
    tauto
  · have hleft : px + (8 - (n + 1)) ≤ c.val ↔ px + (8 - n) ≤ c.val := by omega
    rw [hleft]
    tauto

theorem toggles_plotByte (px : Nat) (row : Fin 32) (byte : Byte) (n : Nat) (hn : n ≤ 8) (d : Drawing) :
    Toggles (byteCovers px row byte n) d (Drawing.plotByte px row byte n d) := by
  induction n generalizing d with
  | zero =>
    refine toggles_nothing d fun c r => ?_
    simp only [byteCovers, Bool.and_eq_false_iff, decide_eq_false_iff_not]
    omega
  | succ n ih =>
    refine (toggles_plot d _ row _).trans (ih (by omega) _) (fun c r h => ?_) (byteCovers_succ px row byte hn)
    simp only [byteCovers, Bool.and_eq_true, decide_eq_true_eq] at h
    have hcol : c.val ≠ px + (7 - n) := by omega
    simp [bitCovers, hcol]

theorem spriteCovers_zero (m : Memory) (base px py : Nat) (c : Fin 64) (r : Fin 32) :
    spriteCovers m base 0 px py c r = false := rfl

/-- A sprite is its top row and the sprite of the rows below it, which starts one byte and one grid row further. -/
theorem spriteCovers_succ (m : Memory) (base n px py : Nat) (c : Fin 64) (r : Fin 32) :
    spriteCovers m base (n + 1) px py c r =
      (byteCovers px (gridRow py 0) (Memory.byteAt m base) 8 c r || spriteCovers m (base + 1) n px (py + 1) c r) := by
  simp only [spriteCovers, byteCovers, gridRow, List.range_succ_eq_map, List.any_cons, List.any_map]
  simp [Function.comp_def, Nat.add_assoc, Nat.add_comm 1, Fin.ext_iff, eq_comm]

/-- The at most 32 rows of a sprite lie on different grid rows. -/
theorem ne_gridRow_of_spriteCovers {m : Memory} {base n px py : Nat} {c : Fin 64} {r : Fin 32} (hn : n < 32)
    (h : spriteCovers m base n px (py + 1) c r = true) : r ≠ gridRow py 0 := by
  simp only [spriteCovers, List.any_eq_true, List.mem_range, Bool.and_eq_true, decide_eq_true_eq] at h
  obtain ⟨k, hk, ⟨⟨hrow, -⟩, -⟩, -⟩ := h
  rintro rfl
  simp only [gridRow] at hrow
  omega

theorem toggles_plotRows (m : Memory) (px py : Nat) (n : Nat) (hn : n ≤ 32) (base k : Nat) (d : Drawing) :
    Toggles (spriteCovers m base n px (py + k)) d (Drawing.plotRows px py k (Memory.bytesAt m base n) d) := by
  induction n generalizing base k d with
  | zero => exact toggles_nothing d (spriteCovers_zero m base px (py + k))
  | succ n ih =>
    refine (toggles_plotByte px (gridRow py k) _ 8 le_rfl d).trans (ih (by omega) (base + 1) (k + 1) _)
      (fun c r h => ?_) (spriteCovers_succ m base n px (py + k))
    have hrow : r ≠ gridRow py k := ne_gridRow_of_spriteCovers (by omega) h
    simp [byteCovers, hrow]

/-- The drawing loops refine the cell-by-cell reading of the sprite (R162, R166). -/
theorem toggles_draw (f : FrameBuffer) (m : Memory) (base px py : Nat) {n : Nat} (hn : n ≤ 32) :
    Toggles (spriteCovers m base n px py) ⟨f, false⟩ (f.draw (Memory.bytesAt m base n) px py) :=
  toggles_plotRows m px py n hn base 0 ⟨f, false⟩

/-! ### DRW by whether the sprite lies in memory -/

/-- The cells that DRW covers in `s`, in the words of the statements. -/
abbrev State.covers (s : State) (x y n : Nibble) (c : Fin 64) (r : Fin 32) : Bool :=
  spriteCovers s.mem s.i.toNat n.toNat (s.getV x).toNat (s.getV y).toNat c r

/-- The draw of DRW in `s`, with the coordinates of `s` itself. -/
def State.drawing (s : State) (x y n : Nibble) : Drawing :=
  s.fb.draw (Memory.bytesAt s.mem s.i.toNat n.toNat) (s.getV x).toNat (s.getV y).toNat

/-- The state DRW leaves when it draws. -/
def State.drawn (s : State) (x y n : Nibble) : State :=
  ((s.setFb (s.drawing x y n).grid).setV vf (flagByte (s.drawing x y n).collision)).advance

/-- DRW with its sprite in memory (R163). -/
theorem exec_drw_of_le {s : State} (x y : Nibble) {n : Nibble} (h : n = 0 ∨ s.i.toNat + n.toNat - 1 ≤ 4095) :
    exec (.drw x y n) s = .next (s.drawn x y n) := by
  exact if_pos ((rangeOk_iff s.i.toNat n.toNat).mpr (h.imp (congrArg BitVec.toNat) (by omega)))

/-- DRW with a sprite byte above 4095 (R164). -/
theorem exec_drw_of_gt {s : State} (x y : Nibble) {n : Nibble} (hn : n ≠ 0) (h : s.i.toNat + n.toNat - 1 > 4095) :
    exec (.drw x y n) s = .next (s.halt .memoryOutOfBounds s.i) := by
  have hn : n.toNat ≠ 0 := fun e => hn (BitVec.eq_of_toNat_eq e)
  refine if_neg (mt (rangeOk_iff s.i.toNat n.toNat).mp ?_)
  omega

theorem toggles_drawing (s : State) (x y n : Nibble) : Toggles (s.covers x y n) ⟨s.fb, false⟩ (s.drawing x y n) :=
  toggles_draw s.fb s.mem _ _ _ (n.isLt.le.trans (by decide))

theorem drawn_cell (s : State) (x y n : Nibble) (c : Fin 64) (r : Fin 32) :
    (s.drawn x y n).fb.cell c r = (s.fb.cell c r ^^ s.covers x y n c r) :=
  (toggles_drawing s x y n).cell c r

theorem drawn_vf (s : State) (x y n : Nibble) :
    (s.drawn x y n).getV vf = flagByte (s.drawing x y n).collision := by
  rw [State.drawn, advance_getV, getV_setV_self]

/-- The collision that DRW reports (R165). -/
theorem drawing_collision_iff (s : State) (x y n : Nibble) :
    (s.drawing x y n).collision = true ↔ ∃ c r, s.fb.cell c r = true ∧ s.covers x y n c r = true := by
  simpa using (toggles_drawing s x y n).collision

theorem flagByte_eq_one_iff (c : Bool) : flagByte c = 1 ↔ c = true := by
  revert c
  decide

/-- A second draw covers the cells of the first where its coordinates are the same: it finds memory and `i` as they
were. -/
theorem drawn_covers {s : State} {x y n : Nibble} (hx : (s.drawn x y n).getV x = s.getV x)
    (hy : (s.drawn x y n).getV y = s.getV y) : (s.drawn x y n).covers x y n = s.covers x y n := by
  unfold State.covers
  rw [hx, hy]
  rfl

/-! ### The obligations -/

/-- Settles O37: the loops toggle the covered cells, by `toggles_drawing`, and VF is their collision. -/
theorem drawTogglesTheCoveredCells : Obligations.DrawTogglesTheCoveredCells := by
  refine fun s x y n => ⟨fun hfit => ?draws, fun hn hpast => ?halts⟩
  case draws =>
    have hothers : SameRegsBut 15 s (s.drawn x y n) := fun k hk => getV_setV_ne _ vf k _ hk
    refine ⟨_, exec_drw_of_le x y hfit, drawn_cell s x y n, ?_, hothers, rfl, ⟨rfl, rfl⟩, ?_, rfl⟩
    · have hiff := drawing_collision_iff s x y n
      have hvf := drawn_vf s x y n
      cases hc : (s.drawing x y n).collision with
      | false => exact .inr ⟨hvf.trans (congrArg flagByte hc), by simpa [hc] using hiff⟩
      | true => exact .inl ⟨hvf.trans (congrArg flagByte hc), hiff.mp hc⟩
    · exact ⟨fun _ => rfl, ⟨rfl, fun _ => rfl⟩, ⟨rfl, rfl, rfl, rfl⟩, ⟨rfl, rfl, rfl, rfl⟩⟩
  case halts => exact ⟨_, exec_drw_of_gt x y hn hpast, halts_halt s _ _⟩

/-- Settles O36: CLS is a write of the blank grid; of the other instructions only DRW touches the grid, and it toggles
covered cells. -/
theorem clearTurnsEveryCellOff : Obligations.ClearTurnsEveryCellOff := by
  constructor
  case left =>
    exact fun s => ⟨_, rfl, cell_blank, rfl, fun _ => rfl, rfl, ⟨rfl, rfl⟩, fun _ => rfl, ⟨rfl, fun _ => rfl⟩,
      ⟨rfl, rfl, rfl, rfl⟩, ⟨rfl, rfl, rfl, rfl⟩⟩
  case right =>
    intro i s t c r h hon hoff
    have hne : t.fb ≠ s.fb := fun e => by simp [e, hon] at hoff
    by_cases hcls : i = .cls
    · exact .inl hcls
    by_cases hdrw : ∃ x y n, i = .drw x y n
    · obtain ⟨x, y, n, rfl⟩ := hdrw
      refine .inr ⟨x, y, n, rfl, ?_⟩
      by_cases hfit : n = 0 ∨ s.i.toNat + n.toNat - 1 ≤ 4095
      · obtain rfl := Host.Outcome.next.inj ((exec_drw_of_le x y hfit).symm.trans h)
        simpa [drawn_cell, hon] using hoff
      · obtain ⟨hn, hpast⟩ := not_or.mp hfit
        obtain rfl := Host.Outcome.next.inj ((exec_drw_of_gt x y hn (not_le.mp hpast)).symm.trans h)
        exact absurd rfl hne
    · exact absurd ((exec_effect h).fb_eq hcls fun x y n e => hdrw ⟨x, y, n, e⟩) hne

/-- Settles O38: both draws toggle the same cells, and the second reports a collision with what the first left on. -/
theorem drawingTwiceRestoresTheGrid : Obligations.DrawingTwiceRestoresTheGrid := by
  intro s t u x y n hfit ht hx hy hu
  obtain rfl := Host.Outcome.next.inj ((exec_drw_of_le x y hfit).symm.trans ht)
  obtain rfl := Host.Outcome.next.inj ((exec_drw_of_le (s := s.drawn x y n) x y hfit).symm.trans hu)
  have hcovers := drawn_covers hx hy
  constructor
  case left =>
    intro c r
    rw [drawn_cell, drawn_cell, hcovers, Bool.xor_assoc, Bool.xor_self, Bool.xor_false]
  case right => rw [drawn_vf, flagByte_eq_one_iff, drawing_collision_iff, hcovers]

end Sys2Proof.Machine
end

section
/-! SUPPORT. The keypad (spec/46_keypad.md): the key skips with an index of a key and with none, the wait that Fx0A
begins, and the run through the Ticks that leave it alone to the KeyEvent that completes it. -/

namespace Sys2Proof.Machine

/-! ### SKP and SKNP by the index in `V[x]` -/

/-- Ex9E with an index of no key (R184). -/
theorem exec_skpVx_of_gt {s : State} {x : Nibble} (h : (s.getV x).toNat > 15) :
    exec (.skpVx x) s = .next (s.halt .keyIndexOutOfRange ((s.getV x).setWidth 16)) :=
  if_pos h

/-- ExA1 with an index of no key (R184). -/
theorem exec_sknpVx_of_gt {s : State} {x : Nibble} (h : (s.getV x).toNat > 15) :
    exec (.sknpVx x) s = .next (s.halt .keyIndexOutOfRange ((s.getV x).setWidth 16)) :=
  if_pos h

theorem skipIf_not_pc (s : State) (c : Bool) : (s.skipIf (!c)).pc = if c = true then s.pc + 2 else s.pc + 4 := by
  cases c <;> rfl

/-! ### The wait completed -/

/-- The state a KeyEvent makes of a waiting one, as `keyEvent_of_waitKey` says (R183, part 2). -/
def State.completeWait (s : State) (k : Nibble) : State := (s.setV s.waitX (k.setWidth 8)).advance.resume

theorem completeWait_getV_waitX (s : State) (k : Nibble) : ((s.completeWait k).getV s.waitX).toNat = k.toNat := by
  rw [State.completeWait, resume_getV, advance_setV_getV_self, BitVec.toNat_setWidth_of_le (by decide)]

theorem completeWait_sameRegsBut (s : State) (k : Nibble) : SameRegsBut s.waitX s (s.completeWait k) :=
  fun j hj => getV_setV_ne s s.waitX j (k.setWidth 8) hj

/-- A KeyEvent taken in WAIT_KEY (R183, part 2). -/
theorem step_keyEvent_of_waitKey {s : State} {k : Nibble} (hs : s.runState = .waitKey)
    (he : s.nextEvent = .keyEvent k) : step s = .next (s.takeEvent.completeWait k) := by
  rw [step, he, deliver, keyEvent_of_waitKey s.takeEvent k hs, State.completeWait]

/-- A KeyEvent taken elsewhere (decision D21). -/
theorem step_keyEvent_of_ne_waitKey {s : State} {k : Nibble} (hs : s.runState ≠ .waitKey)
    (he : s.nextEvent = .keyEvent k) : step s = .next s.takeEvent := by
  rw [step, he, deliver, keyEvent_of_ne_waitKey s.takeEvent k hs]

/-- Taking an event changes the host's side only. -/
theorem sameMachine_takeEvent (s : State) : SameMachine s s.takeEvent := by
  simp [SameMachine, SameRegs, SameMem, SameStack, SameTimers, SameGrid, SameStatus]

/-! ### A run through idle Ticks -/

/-- `s` with only the host's side moved on: `n` more events taken, and `rest` still to come. -/
def State.afterEvents (s : State) (n : Nat) (rest : List HostEvent) : State :=
  { s with events := rest, eventIndex := s.eventIndex + n }

theorem afterEvents_zero (s : State) : s.afterEvents 0 s.events = s := rfl

theorem takeEvent_afterEvents (s : State) (n : Nat) (rest : List HostEvent) :
    s.takeEvent.afterEvents n rest = s.afterEvents (n + 1) rest := by
  simp only [State.afterEvents, State.takeEvent, Nat.add_assoc, Nat.add_comm 1 n]

theorem exists_tick_of_isTick {e : HostEvent} (h : e.isTick = true) : ∃ keys rnd, e = .tick keys rnd := by
  cases e with
  | tick keys rnd => exact ⟨keys, rnd, rfl⟩
  | reset image => cases h
  | keyEvent k => cases h

/-- Outside RUNNING a run goes through a list of Ticks by taking them, and on from there (R95, R213). -/
theorem run_idle_ticks (ticks rest : List HostEvent) (n : Nat) (s : State) (hs : s.runState ≠ .running)
    (hev : s.events = ticks ++ rest) (hticks : ∀ e ∈ ticks, e.isTick = true) :
    Host.Core.run core (ticks.length + n) s = Host.Core.run core n (s.afterEvents ticks.length rest) := by
  induction ticks generalizing s with
  | nil =>
    obtain rfl : s.events = rest := hev
    rw [List.length_nil, Nat.zero_add, afterEvents_zero]
  | cons e ticks ih =>
    obtain ⟨he, hmore⟩ := List.forall_mem_cons.mp hticks
    obtain ⟨keys, rnd, rfl⟩ := exists_tick_of_isTick he
    have hnext : s.nextEvent = .tick keys rnd := by simp only [State.nextEvent, hev, List.cons_append]
    have hrest : s.takeEvent.events = ticks ++ rest := by rw [takeEvent_events, hev, List.cons_append, List.tail_cons]
    calc Host.Core.run core ((ticks.length + 1) + n) s
      _ = Host.Core.run core ((ticks.length + n) + 1) s := by rw [Nat.add_right_comm]
      _ = Host.Core.run core (ticks.length + n) s.takeEvent := run_succ _ s _ (step_tick_idle hs hnext)
      _ = Host.Core.run core n (s.takeEvent.afterEvents ticks.length rest) := ih s.takeEvent hs hrest hmore
      _ = Host.Core.run core n (s.afterEvents (ticks.length + 1) rest) := by rw [takeEvent_afterEvents]

/-- A waiting block goes through a list of Ticks to the KeyEvent after them, which completes the wait of the state
before the Ticks but for the host's side (R183, R227). -/
theorem run_ticks_keyEvent {s : State} {ticks rest : List HostEvent} {k : Nibble} (hs : s.runState = .waitKey)
    (hev : s.events = ticks ++ .keyEvent k :: rest) (hticks : ∀ e ∈ ticks, e.isTick = true) :
    Host.Core.run core (ticks.length + 1) s = .next ((s.afterEvents (ticks.length + 1) rest).completeWait k) := by
  have hidle : s.runState ≠ .running := by simp [hs]
  exact (run_idle_ticks ticks _ 1 s hidle hev hticks).trans (run_succ 0 _ _ (step_keyEvent_of_waitKey hs rfl))

/-! ### The obligations -/

/-- Settles O9: the run ends in `completeWait` of the state before it, with only the host's side moved on. -/
theorem waitOutlastsAnyTicks : Obligations.WaitOutlastsAnyTicks := by
  intro s ticks rest k hs hev hticks
  have hvalue := completeWait_getV_waitX (s.afterEvents (ticks.length + 1) rest) k
  have hothers := completeWait_sameRegsBut (s.afterEvents (ticks.length + 1) rest) k
  exact ⟨_, run_ticks_keyEvent hs hev hticks, rfl, hvalue, hothers, rfl, rfl, rfl, fun _ => rfl,
    ⟨rfl, fun _ => rfl⟩, ⟨rfl, rfl⟩, fun _ _ => rfl, rfl, rfl, rfl⟩

/-- Settles O8: in WAIT_KEY the step is `completeWait`, elsewhere it only takes the event. -/
theorem keyEventCompletesTheWait : Obligations.KeyEventCompletesTheWait := by
  refine fun s k he => ⟨fun hs => ?waiting, fun hs => ?elsewhere⟩
  case waiting =>
    exact ⟨_, step_keyEvent_of_waitKey hs he, completeWait_getV_waitX s.takeEvent k,
      completeWait_sameRegsBut s.takeEvent k, rfl, rfl, rfl, rfl, fun _ => rfl, ⟨rfl, fun _ => rfl⟩, ⟨rfl, rfl⟩,
      fun _ _ => rfl, rfl, rfl⟩
  case elsewhere => exact ⟨_, step_keyEvent_of_ne_waitKey hs he, sameMachine_takeEvent s⟩

/-- Settles O39: with an index of a key both are `skipIf` on that key's bit, with any other both are the same halt. -/
theorem keySkipsSampleTheKey : Obligations.KeySkipsSampleTheKey := by
  refine fun s x => ⟨fun hx => ⟨?skp, ?sknp⟩, fun hx => ?halts⟩
  case skp => exact ⟨_, exec_skpVx_of_le s x hx, sameButPc_skipIf s _, rfl⟩
  case sknp => exact ⟨_, exec_sknpVx_of_le s x hx, sameButPc_skipIf s _, skipIf_not_pc s _⟩
  case halts =>
    have hinfo : ((s.getV x).setWidth 16).toNat = (s.getV x).toNat := BitVec.toNat_setWidth_of_le (by decide)
    exact ⟨_, hinfo, ⟨_, exec_skpVx_of_gt hx, halts_halt s _ _⟩, ⟨_, exec_sknpVx_of_gt hx, halts_halt s _ _⟩⟩

/-- Settles O40: Fx0A is `suspend`, which writes `wait_x` and the run state alone. -/
theorem keyWaitSuspends : Obligations.KeyWaitSuspends := by
  intro s x
  exact ⟨s.suspend x, rfl, rfl, rfl, rfl, fun _ => rfl, rfl, fun _ => rfl, ⟨rfl, fun _ => rfl⟩, ⟨rfl, rfl⟩,
    fun _ _ => rfl, rfl, rfl, ⟨rfl, rfl, rfl, rfl⟩⟩

end Sys2Proof.Machine
end

section
/-! SUPPORT. The Fxkk family (spec/47_misc_f.md): the timer accesses, the index arithmetic, and the three instructions
that move bytes between registers and memory, within bounds and out of them. -/

namespace Sys2Proof.Machine

/-! ### What the writes of the family leave unchanged -/

/-- A write of registers, `i`, timers and `pc` reaches nothing deeper. -/
theorem sameDeep_with (s : State) (v : Vector Byte 16) (a : Word) (delay sound : Byte) (pc : Word) :
    SameDeep s { s with v := v, i := a, delayTimer := delay, soundTimer := sound, pc := pc } :=
  ⟨fun _ => rfl, ⟨rfl, fun _ => rfl⟩, ⟨rfl, rfl, rfl, rfl⟩, ⟨rfl, rfl, rfl, rfl⟩⟩

/-- A write of memory, `i` and `pc`, which `setMem` with and without `setI` is. -/
theorem sameButMemIndexPc_with (s : State) (m : Memory) (a pc : Word) :
    SameButMemIndexPc s { s with mem := m, i := a, pc := pc } :=
  ⟨fun _ => rfl, ⟨rfl, rfl⟩, fun _ _ => rfl, ⟨rfl, fun _ => rfl⟩, ⟨rfl, rfl, rfl, rfl⟩, ⟨rfl, rfl, rfl, rfl⟩⟩

/-- A store changes no byte outside the bytes stored (R55). -/
theorem sameMemBut_of_putBytes {s t : State} {a : Nat} {bs : List Byte} (hmem : t.mem = Memory.putBytes s.mem a bs) :
    SameMemBut a bs.length s t := by
  intro b hb
  rw [hmem, byteAt_putBytes_outside bs s.mem a b hb]

/-! ### The index register -/

theorem indexPlus_toNat (a : Word) (n : Nat) : (indexPlus a n).toNat = (a.toNat + n) % 65536 := BitVec.toNat_ofNat _ _

/-- The largest glyph address is 255 * 5 (R195). -/
theorem glyphAddr_toNat (b : Byte) : (glyphAddr b).toNat = b.toNat * 5 := by
  unfold glyphAddr
  bv_omega

/-! ### The load within bounds, and the three instructions out of them -/

/-- Fx65 within bounds (R198). -/
theorem exec_ldVxMem_of_le (s : State) (x : Nibble) (h : s.i.toNat + x.toNat ≤ 4095) :
    exec (.ldVxMem x) s =
      .next ((s.loadRegs s.i.toNat (x.toNat + 1)).setI (indexPlus s.i (x.toNat + 1))).advance :=
  if_pos ((rangeOk_iff s.i.toNat (x.toNat + 1)).mpr (.inr (by omega)))

/-- A range whose last address is past 4095 fails the bounds check (R56). -/
theorem not_rangeOk_succ {base n : Nat} (h : base + n > 4095) : ¬ rangeOk base (n + 1) = true := by
  rw [rangeOk_iff]
  omega

/-- Fx33 out of bounds (R196). -/
theorem exec_ldBVx_of_gt (s : State) (x : Nibble) (h : s.i.toNat + 2 > 4095) :
    exec (.ldBVx x) s = .next (s.halt .memoryOutOfBounds s.i) :=
  if_neg (not_rangeOk_succ h)

/-- Fx55 out of bounds (R197). -/
theorem exec_ldMemVx_of_gt (s : State) (x : Nibble) (h : s.i.toNat + x.toNat > 4095) :
    exec (.ldMemVx x) s = .next (s.halt .memoryOutOfBounds s.i) :=
  if_neg (not_rangeOk_succ h)

/-- Fx65 out of bounds (R198). -/
theorem exec_ldVxMem_of_gt (s : State) (x : Nibble) (h : s.i.toNat + x.toNat > 4095) :
    exec (.ldVxMem x) s = .next (s.halt .memoryOutOfBounds s.i) :=
  if_neg (not_rangeOk_succ h)

/-! ### The bytes stored and the registers loaded -/

theorem i_after_dump {s t : State} {x : Nibble} (hfit : s.i.toNat + x.toNat ≤ 4095)
    (h : exec (.ldMemVx x) s = .next t) : t.i = indexPlus s.i (x.toNat + 1) := by
  rw [exec_ldMemVx_of_le s x hfit] at h
  injection h with h
  exact h ▸ rfl

/-- After Fx55 the byte at `i + k` is `V[k]`. -/
theorem byteAt_after_dump {s t : State} {x k : Nibble} (hok : s.memOk) (hfit : s.i.toNat + x.toNat ≤ 4095)
    (hk : k.toNat ≤ x.toNat) (h : exec (.ldMemVx x) s = .next t) :
    Memory.byteAt t.mem (s.i.toNat + k.toNat) = s.getV k := by
  have hlen : (s.regsFrom 0 (x.toNat + 1)).length = x.toNat + 1 := regsFrom_length s 0 (x.toNat + 1)
  rw [mem_after_dump hfit h, byteAt_putBytes_inside _ _ _ _ (by omega) hok (by omega), dump_getD s (by omega),
    BitVec.ofNat_toNat, BitVec.setWidth_eq]

/-- After Fx33 the byte at `i + k` is the k-th digit. -/
theorem byteAt_after_digits {s t : State} {x : Nibble} {k : Nat} (hok : s.memOk) (hfit : s.i.toNat + 2 ≤ 4095)
    (hk : k < 3) (h : exec (.ldBVx x) s = .next t) :
    Memory.byteAt t.mem (s.i.toNat + k) = (bcdDigits (s.getV x)).getD k 0 := by
  have hlen : (bcdDigits (s.getV x)).length = 3 := rfl
  rw [mem_after_digits hfit h, byteAt_putBytes_inside _ _ _ _ (by omega) hok (by omega)]

/-- The digits of a byte as numbers (R196). -/
theorem bcdDigits_toNat (b : Byte) :
    ((bcdDigits b).getD 0 0).toNat = b.toNat / 100 ∧ ((bcdDigits b).getD 1 0).toNat = b.toNat / 10 % 10 ∧
      ((bcdDigits b).getD 2 0).toNat = b.toNat % 10 := by
  have hb : b.toNat < 256 := b.isLt
  have toNat_digit {d : Nat} (hd : d < 256) : (BitVec.ofNat 8 d).toNat = d :=
    (BitVec.toNat_ofNat d 8).trans (Nat.mod_eq_of_lt hd)
  exact ⟨toNat_digit (by omega), toNat_digit (by omega), toNat_digit (by omega)⟩

/-- After Fx65 the registers 0 to x hold the bytes from `i` on, and the others what they held. -/
theorem getV_after_load (s : State) (x k : Nibble) (a : Word) :
    ((s.loadRegs s.i.toNat (x.toNat + 1)).setI a).advance.getV k =
      if k.toNat ≤ x.toNat then Memory.byteAt s.mem (s.i.toNat + k.toNat) else s.getV k := by
  simp only [advance_getV, setI_getV, loadRegs_getV s s.i.toNat (x.toNat + 1) x.isLt k, Nat.lt_succ_iff]

/-- Beside the registers and `i`, a load moves `pc` alone. -/
theorem loadRegs_frame (s : State) (base n : Nat) (a : Word) :
    SameTimers s ((s.loadRegs base n).setI a).advance ∧ SameGrid s ((s.loadRegs base n).setI a).advance ∧
      SameDeep s ((s.loadRegs base n).setI a).advance ∧ ((s.loadRegs base n).setI a).advance.pc = s.pc + 2 := by
  obtain ⟨v, hv⟩ := loadRegs_eq s base n
  rw [hv]
  exact ⟨⟨rfl, rfl⟩, fun _ _ => rfl, sameDeep_with s v a _ _ _, rfl⟩

/-! ### The obligations -/

/-- Settles O46: the load reads, at the address the dump stored it, each register of the dump. -/
theorem dumpThenLoadRestoresRegisters : Obligations.DumpThenLoadRestoresRegisters := by
  intro s t u x hok hfit hdump hmem hi
  have ht : t.i = indexPlus s.i (x.toNat + 1) := i_after_dump hfit hdump
  refine ⟨_, exec_ldVxMem_of_le u x (hi ▸ hfit), fun k hk => ?regs, ?index, ?sameIndex⟩
  case regs => rw [getV_after_load, if_pos hk, hmem, hi, byteAt_after_dump hok hfit hk hdump]
  case index =>
    rw [ht, indexPlus_toNat]
    omega
  case sameIndex => rw [ht, ← hi]; rfl

/-- Settles O41: one write of `V[x]` and two of a timer. -/
theorem timerAccesses : Obligations.TimerAccesses := by
  refine fun s x => ⟨?read, ?delay, ?sound⟩
  case read => exact ⟨_, rfl, advance_setV_getV_self s x s.delayTimer, writesRegister_setV s x s.delayTimer⟩
  case delay => exact ⟨_, rfl, rfl, rfl, fun _ => rfl, rfl, fun _ _ => rfl, sameDeep_with s _ _ _ _ _, rfl⟩
  case sound => exact ⟨_, rfl, rfl, rfl, fun _ => rfl, rfl, fun _ _ => rfl, sameDeep_with s _ _ _ _ _, rfl⟩

/-- Settles O42: two writes of `i`, whose values are numbers with and without a reduction. -/
theorem indexArithmetic : Obligations.IndexArithmetic := by
  refine fun s x => ⟨?add, ?glyph⟩
  case add => exact ⟨_, rfl, indexPlus_toNat s.i _, sameButIndexPc_setI s _, rfl⟩
  case glyph => exact ⟨_, rfl, glyphAddr_toNat (s.getV x), sameButIndexPc_setI s _, rfl⟩

/-- Settles O43: within bounds one store of the three digits, out of bounds the halt. -/
theorem digitsAreStored : Obligations.DigitsAreStored := by
  refine fun s x => ⟨fun hfit => ?stores, fun hpast => ⟨_, exec_ldBVx_of_gt s x hpast, halts_halt s _ _⟩⟩
  case stores =>
    have hexec := exec_ldBVx_of_le s x hfit
    obtain ⟨hhundreds, htens, hones⟩ := bcdDigits_toNat (s.getV x)
    refine ⟨_, hexec, sameMemBut_of_putBytes (mem_after_digits hfit hexec), fun hok => ⟨?_, ?_, ?_⟩, rfl,
      sameButMemIndexPc_with s _ _ _, rfl⟩
    · rw [← hhundreds, ← byteAt_after_digits hok hfit (by decide) hexec, Nat.add_zero]
    · rw [← htens, ← byteAt_after_digits hok hfit (by decide) hexec]
    · rw [← hones, ← byteAt_after_digits hok hfit (by decide) hexec]

/-- Settles O44: within bounds one store of x + 1 bytes, out of bounds the halt. -/
theorem registersAreDumped : Obligations.RegistersAreDumped := by
  refine fun s x => ⟨fun hfit => ?dumps, fun hpast => ⟨_, exec_ldMemVx_of_gt s x hpast, halts_halt s _ _⟩⟩
  case dumps =>
    have hexec := exec_ldMemVx_of_le s x hfit
    have houtside := sameMemBut_of_putBytes (mem_after_dump hfit hexec)
    rw [regsFrom_length] at houtside
    exact ⟨_, hexec, houtside, fun hok k hk => byteAt_after_dump hok hfit hk hexec,
      indexPlus_toNat s.i (x.toNat + 1), sameButMemIndexPc_with s _ _ _, rfl⟩

/-- Settles O45: within bounds the load of x + 1 registers, out of bounds the halt. -/
theorem registersAreLoaded : Obligations.RegistersAreLoaded := by
  refine fun s x => ⟨fun hfit => ?loads, fun hpast => ⟨_, exec_ldVxMem_of_gt s x hpast, halts_halt s _ _⟩⟩
  case loads =>
    exact ⟨_, exec_ldVxMem_of_le s x hfit, fun k => getV_after_load s x k _, indexPlus_toNat s.i (x.toNat + 1),
      loadRegs_frame s _ _ _⟩

end Sys2Proof.Machine
end

section
/-! SUPPORT. The halted block and the refused Reset (spec/60_exceptions.md): what a halted block does over any number of
events that hold no Reset, and the Reset with an overlong image. -/

namespace Sys2Proof.Machine

/-- No Reset is delivered unasked (R7, log entry 2). -/
theorem freeEvent_ne_reset (s : State) (image : List Byte) : s.freeEvent ≠ .reset image := by
  unfold State.freeEvent
  split
  · nofun
  · nofun
  · split <;> nofun

/-- With no Reset listed the next event is none. -/
theorem nextEvent_ne_reset {s : State} (hno : ∀ image, .reset image ∉ s.events) (image : List Byte) :
    s.nextEvent ≠ .reset image := by
  unfold State.nextEvent
  split
  · next e rest hev =>
    rintro rfl
    exact hno image (hev ▸ List.mem_cons_self)
  · exact freeEvent_ne_reset s image

/-- In HALTED every event but a Reset is taken and nothing else (R213). -/
theorem step_of_halted {s : State} (hs : s.runState = .halted) (hno : ∀ image, s.nextEvent ≠ .reset image) :
    step s = .next s.takeEvent := by
  cases he : s.nextEvent with
  | reset image => exact absurd he (hno image)
  | tick keys rnd => exact step_tick_idle (by simp [hs]) he
  | keyEvent k => exact step_keyEvent_of_ne_waitKey (by simp [hs]) he

/-- A halted block takes any number of events without a Reset and does nothing with them (R213). -/
theorem run_of_halted (n : Nat) (s : State) (hs : s.runState = .halted) (hno : ∀ image, .reset image ∉ s.events) :
    Host.Core.run core n s = .next (s.afterEvents n (s.events.drop n)) := by
  induction n generalizing s with
  | zero => rfl
  | succ n ih =>
    have hlater (image : List Byte) : .reset image ∉ s.takeEvent.events := fun h => hno image (List.mem_of_mem_tail h)
    rw [run_succ n s _ (step_of_halted hs (nextEvent_ne_reset hno)), ih s.takeEvent hs hlater, takeEvent_afterEvents,
      takeEvent_events, List.drop_tail]

/-- Events taken change the host's side only. -/
theorem sameMachine_afterEvents (s : State) (n : Nat) (rest : List HostEvent) : SameMachine s (s.afterEvents n rest) :=
  ⟨rfl, fun _ => rfl, rfl, fun _ => rfl, ⟨rfl, fun _ => rfl⟩, ⟨rfl, rfl⟩, fun _ _ => rfl, ⟨rfl, rfl, rfl, rfl⟩⟩

/-- A step that takes a Reset with an image that does not fit (R225). -/
theorem step_reset_of_overlong {s : State} {image : List Byte} (he : s.nextEvent = .reset image)
    (hlong : image.length > Config.progMax) : step s = .refused (.imageTooLong image.length) := by
  simp only [step, he, deliver, if_neg (Nat.not_le.mpr hlong)]

/-! ### The obligations -/

/-- Settles O10: by `run_of_halted`, which moves on the host's side only. -/
theorem haltedStaysUntilReset : Obligations.HaltedStaysUntilReset :=
  fun n s hs hno => ⟨_, run_of_halted n s hs hno, sameMachine_afterEvents s n _⟩

/-- Settles O2: the first event listed is the next one, and its image does not fit. -/
theorem overlongImageIsRefused : Obligations.OverlongImageIsRefused := by
  intro s image rest hlong hev
  have he : s.nextEvent = .reset image := by simp only [State.nextEvent, hev]
  exact step_reset_of_overlong he hlong

end Sys2Proof.Machine
end
